-- ==== Sys2Proof/Word.lean ====
section
/-! DEFINITION. The words of the machine: every value of the spec is unsigned (00_scope R11). -/

namespace Sys2Proof

/-- A byte of a frame, a buffer or a memory (00_scope R11). -/
abbrev Byte := BitVec 8

/-- A bank number, always 3 bits wide (00_scope R9, `BANK_BITS`). -/
abbrev Bank := BitVec 3

/-- What one host register access carries (10_state R21). -/
abbrev HostWord := BitVec 32

end Sys2Proof
end

