-- ==== Sys2Proof/Config.lean ====
section
/-! DEFINITION. What one instance of the block and of its peer fixes (00_scope R9, 92_eei section 1), and the
free values. A parameter the spec leaves OPEN has no body: no proof can see its value (log 10, log 11). -/

namespace Sys2Proof.Config

/-- `PAGE_SIZE`, fixed (00_scope R9). -/
def pageSize : Nat := 256

/-- `BANK_SIZE`, fixed (00_scope R9). -/
def bankSize : Nat := 65536

/-- Bytes of device memory: 8 banks, 19 address bits (00_scope R9, R10). -/
def memBytes : Nat := 8 * bankSize

/-- `DEFAULT_BLOCK`, fixed: 16 pages (00_scope R9). -/
def defaultBlock : Nat := 16 * pageSize

/-- `DEADLINE_DEFAULT`, fixed (00_scope R9). -/
def deadlineDefault : BitVec 16 := 5

/-- `ACK_BYTE`, OPEN: the acknowledgement value (30_encoding R98). -/
opaque ackByte : Byte

/-- How far above `ACK_BYTE` (modulo 256, less one) `NAK_BYTE` lies. OPEN. -/
opaque nakOffset : Fin 255

/-- `NAK_BYTE`, OPEN but for being different from `ACK_BYTE` (46_device R266). -/
def nakByte : Byte := ackByte + 1 + BitVec.ofNat 8 nakOffset.val

/-- How far above 16 `MAX_PAGES` lies. OPEN. -/
opaque maxPagesAbove16 : Fin 240

/-- `MAX_PAGES`, OPEN in [16, 255] (00_scope R9). -/
def maxPages : Nat := 16 + maxPagesAbove16.val

/-- `BUF_BYTES`, derived (00_scope R9). -/
def bufBytes : Nat := maxPages * pageSize

/-- `BAUD`, OPEN; no rule reads it (00_scope R9, 40_transport R121). -/
opaque baud : Nat

/-- `TIME_UNIT`, OPEN; no rule reads its length (00_scope R9, 10_state R33). -/
opaque timeUnit : Nat

/-- The two readings of how the device's I/O bank takes part in a transfer (46_device R262). -/
inductive IoBankMode
  | ignored
  | added
deriving DecidableEq, Repr, Inhabited

/-- `IOBANK_MODE`, OPEN (46_device R262). -/
opaque ioBankMode : IoBankMode

/-- `BS_UPDATES_ACTIVE`, OPEN (46_device R263). -/
opaque bsUpdatesActive : Bool

/-- `REJECT`, OPEN: the positions, from 1, of the frames the reference responder rejects (46_device R266). -/
opaque reject : Nat → Bool

/-- `DEV_TYPE`, OPEN (46_device R252). -/
opaque devType : Byte

/-- `DEV_VERSION`, OPEN (46_device R252). -/
opaque devVersion : Byte

/-- `DEV_ID`, OPEN (46_device R252). -/
opaque devId : Byte

/-- `VENDOR_ID`, OPEN (46_device R252). -/
opaque vendorId : Byte

/-- `SERIAL[0..7]`, OPEN (46_device R252). -/
opaque serial : Fin 8 → Byte

/-- Free value: what a host read returns where the spec gives no value (93 U3, U9). The argument is the
machine's `free` counter. -/
opaque anyRead : Nat → HostWord

/-- Free value: the I/O bank after a device power cycle (46_device R264). The argument is the machine's
`free` counter. -/
opaque anyBank : Nat → Bank

end Sys2Proof.Config
end

