-- ==== Sys2Proof/Syntax.lean ====
section
/-! DEFINITION. The ten commands (00_scope R2), with the operands their request headers carry (30_encoding R95). -/

namespace Sys2Proof

/-- One command line of 30_encoding R104: a constructor per row of spec/opcode_table.json, in its order. The
bank operands are the 3-bit fields of the frame; a wider value is masked when it is written to its register. -/
inductive Instr
  /-- `VV`, identity query (42_identity R170). -/
  | vv
  /-- `NS`, vendor and serial query (42_identity R171). -/
  | ns
  /-- `ZW n, bh, ah`, write pages (43_memory R180). -/
  | zw (n : Byte) (bh : Bank) (ah : Byte)
  /-- `ZR n, bh, ah`, read pages (43_memory R181). -/
  | zr (n : Byte) (bh : Bank) (ah : Byte)
  /-- `BR b`, set the I/O bank (44_bank R200). -/
  | br (b : Bank)
  /-- `BRR`, get the I/O bank (44_bank R201). -/
  | brr
  /-- `BS b`, set the persistent emulation bank (44_bank R202). -/
  | bs (b : Bank)
  /-- `BE b`, set the volatile emulation bank (44_bank R203). -/
  | be (b : Bank)
  /-- `BES`, get the persistent emulation bank (44_bank R204). -/
  | bes
  /-- `BER`, get the volatile emulation bank (44_bank R205). -/
  | ber
deriving DecidableEq, Repr

end Sys2Proof
end

