-- ==== Sys2Proof/Decode.lean ====
section
/-! DEFINITION. Request frames as bytes: the checksum, the decoder of headers and of whole frames, the encoder,
and the opcode table's words. Letter values are ASCII (30_encoding R92; log 6). -/

namespace Sys2Proof

/-- `sum8`, the 8-bit wrapping sum of a byte sequence (00_scope R14, 41_framer R146). -/
def sum8 : List Byte → Byte
  | [] => 0
  | b :: bs => b + sum8 bs

/-- Why a byte sequence is no command header or no request frame. -/
inductive DecodeError
  /-- A proper prefix of something that may still become one (46_device R254). -/
  | truncated
  /-- The leading bytes are the code of no command (30_encoding R100). -/
  | unknownCode
  /-- A bank or bank-high byte above 7 (30_encoding R103). -/
  | bankTooLarge
  /-- Bytes after a whole header where none may follow. -/
  | trailingBytes
  /-- A transfer frame with page count 0 (46_device R265). -/
  | pageCountZero
  /-- The trailing checksum byte differs from the sum (46_device R265). -/
  | badChecksum
deriving DecidableEq, Repr

/-- What the engine reads back, and what it checks (30_encoding R97). -/
inductive Response
  /-- A_RAW3: 3 bytes, unchecked. -/
  | raw3
  /-- A_PAYC(m): m payload bytes and a checksum byte. -/
  | payc (m : Nat)
  /-- A_ACK: 1 byte, `ACK_BYTE` or a negative acknowledgement. -/
  | ack
  /-- A_BYTE: 1 byte, unchecked. -/
  | byte
deriving DecidableEq, Repr

/-- A 3-bit field read from a frame byte whose bits 7 to 3 must be 0 (30_encoding R96). -/
def bankOfByte (b : Byte) : Option Bank :=
  if b.toNat < 8 then some (b.setWidth 3) else none

/-- The operands of `ZW` and `ZR` after their code (30_encoding R95: page count, bank-high, addr-high). -/
def decodeTransfer (mk : Byte → Bank → Byte → Instr) : List Byte → Except DecodeError (Instr × List Byte)
  | n :: bh :: ah :: rest =>
    match bankOfByte bh with
    | some b => .ok (mk n b ah, rest)
    | none => .error .bankTooLarge
  | [_, bh] => if (bankOfByte bh).isSome then .error .truncated else .error .bankTooLarge
  | _ => .error .truncated

/-- The one parameter byte of the bank commands: a get's fixed letter or a set's bank (30_encoding R100). -/
def decodeBank (get : Byte → Option Instr) (set : Bank → Instr) :
    List Byte → Except DecodeError (Instr × List Byte)
  | c :: rest =>
    match get c with
    | some i => .ok (i, rest)
    | none =>
      match bankOfByte c with
      | some b => .ok (set b, rest)
      | none => .error .bankTooLarge
  | [] => .error .truncated

/-- The fixed parameter letter after `42 52`: `R` is `BRR` (30_encoding R94). -/
def getIoLetter (c : Byte) : Option Instr := if c = 0x52 then some .brr else none

/-- The fixed parameter letter after `42 45`: `S` is `BES`, `R` is `BER` (30_encoding R94). -/
def getEmuLetter (c : Byte) : Option Instr :=
  if c = 0x53 then some .bes else if c = 0x52 then some .ber else none

/-- What follows a two-byte command code (30_encoding R100). -/
def decodeAfterCode (c0 c1 : Byte) (rest : List Byte) : Except DecodeError (Instr × List Byte) :=
  if c0 = 0x56 ∧ c1 = 0x56 then .ok (.vv, rest)
  else if c0 = 0x4E ∧ c1 = 0x53 then .ok (.ns, rest)
  else if c0 = 0x5A ∧ c1 = 0x57 then decodeTransfer .zw rest
  else if c0 = 0x5A ∧ c1 = 0x52 then decodeTransfer .zr rest
  else if c0 = 0x42 ∧ c1 = 0x52 then decodeBank getIoLetter .br rest
  else if c0 = 0x42 ∧ c1 = 0x53 then decodeBank (fun _ => none) .bs rest
  else if c0 = 0x42 ∧ c1 = 0x45 then decodeBank getEmuLetter .be rest
  else .error .unknownCode

/-- Reads one command header (code and parameter bytes) and answers the bytes after it (30_encoding R100). A page
count of 0 is read as it stands: what refuses it is acceptance (41_framer R151; log 5). -/
def decodeHeader : List Byte → Except DecodeError (Instr × List Byte)
  | c0 :: c1 :: rest => decodeAfterCode c0 c1 rest
  | [c0] => if c0 ∈ [0x56, 0x4E, 0x5A, 0x42] then .error .truncated else .error .unknownCode
  | [] => .error .truncated

/-- Reads a sequence that is exactly one command header: the bytes of one host command line. -/
def decode (bs : List Byte) : Except DecodeError Instr :=
  match decodeHeader bs with
  | .ok (i, []) => .ok i
  | .ok (_, _ :: _) => .error .trailingBytes
  | .error e => .error e

/-- A bank as a frame byte, bits 7 to 3 zero (30_encoding R96). -/
def byteOfBank (b : Bank) : Byte := b.setWidth 8

/-- The header of a command, `hdr` of 30_encoding R95. -/
def encode : Instr → List Byte
  | .vv => [0x56, 0x56]
  | .ns => [0x4E, 0x53]
  | .zw n bh ah => [0x5A, 0x57, n, byteOfBank bh, ah]
  | .zr n bh ah => [0x5A, 0x52, n, byteOfBank bh, ah]
  | .br b => [0x42, 0x52, byteOfBank b]
  | .brr => [0x42, 0x52, 0x52]
  | .bs b => [0x42, 0x53, byteOfBank b]
  | .be b => [0x42, 0x45, byteOfBank b]
  | .bes => [0x42, 0x45, 0x53]
  | .ber => [0x42, 0x45, 0x52]

/-- `PLEN`, the payload bytes of the request (30_encoding R95). -/
def Instr.payloadLen : Instr → Nat
  | .zw n _ _ => 256 * n.toNat
  | _ => 0

/-- Whether the request ends in a checksum byte: all but `VV` (30_encoding R95). -/
def Instr.checksummed : Instr → Bool
  | .vv => false
  | _ => true

/-- The response format of a command (30_encoding R97, R99). -/
def Instr.response : Instr → Response
  | .vv => .raw3
  | .ns => .payc 9
  | .zw _ _ _ => .ack
  | .zr n _ _ => .payc (256 * n.toNat)
  | .br _ => .ack
  | .brr => .byte
  | .bs _ => .ack
  | .be _ => .ack
  | .bes => .byte
  | .ber => .byte

/-- The page count field of a transfer (30_encoding R93). -/
def Instr.pages : Instr → Option Byte
  | .zw n _ _ => some n
  | .zr n _ _ => some n
  | _ => none

/-- `build_frame`: the body, and its sum where the frame is checksummed (30_encoding R90, 41_framer R142). -/
def buildFrame (code params payload : List Byte) (checksummed : Bool) : List Byte :=
  let body := code ++ params ++ payload
  if checksummed then body ++ [sum8 body] else body

/-- The whole request frame of a command with its payload (30_encoding R95). -/
def frameOf (i : Instr) (payload : List Byte) : List Byte :=
  buildFrame ((encode i).take 2) ((encode i).drop 2) payload i.checksummed

/-- The payload and the checksum byte after a header (30_encoding R90, R100). -/
def decodeBody (i : Instr) (rest : List Byte) : Except DecodeError (Instr × List Byte × List Byte) :=
  if i.pages = some 0 then .error .pageCountZero
  else if i.checksummed then
    match rest.drop i.payloadLen with
    | [] => .error .truncated
    | cs :: rest' =>
      let payload := rest.take i.payloadLen
      if cs = sum8 (encode i ++ payload) then .ok (i, payload, rest') else .error .badChecksum
  else .ok (i, [], rest)

/-- Reads one whole well-formed request frame from the head of a queue: the command, its payload, and the bytes
after it (46_device R254; 30_encoding R100). -/
def decodeFrame (bs : List Byte) : Except DecodeError (Instr × List Byte × List Byte) :=
  match decodeHeader bs with
  | .error e => .error e
  | .ok (i, rest) => decodeBody i rest

/-- The bytes of an opcode-table word of `nbits` bits. The table writes a header as one number with byte 0 leftmost
(log 4). -/
def tableBytes (nbits w : Nat) : List Byte :=
  (List.range (nbits / 8)).map fun k => BitVec.ofNat 8 (w >>> (8 * (nbits / 8 - 1 - k)))

/-- The command the decoder reads from an opcode-table word. -/
def decodeTableWord (nbits w : Nat) : Option Instr :=
  match decode (tableBytes nbits w) with
  | .ok i => some i
  | .error _ => none

end Sys2Proof
end

