-- ==== Sys2Proof/Machine/State.lean ====
section
/-! DEFINITION. The state of the five agents as plain data (10_state; 40_transport R122; 46_device R251), what may
happen next (00_scope R8), why a step can stop, and the state right after reset (10_state R43). -/

namespace Sys2Proof.Machine

/-- PH, the nine phases (10_state R29). Codes 9 to 15 are never taken (93 U7). -/
inductive Phase
  | idle | txHdr | txPay | txCsum | rxAck | rxByte | rxRaw | rxPay | rxCsum
deriving DecidableEq, Repr

/-- STATUS.ERR (60_exceptions R281). Codes 6 and 7 are never produced (93 U7). -/
inductive ErrKind
  | none | ioWrite | ioRead | nak | csum | precond
deriving DecidableEq, Repr

/-- STATUS (10_state R32). -/
structure Status where
  busy : Bool
  done : Bool
  fault : Bool
  csm : Bool
  ovr : Bool
  err : ErrKind
deriving DecidableEq, Repr

/-- Bytes by address: addresses strictly rising; an unlisted address has no value (log 9). -/
abbrev Memory := List Host.Cell

/-- The block's state (10_state R20). -/
structure Engine where
  /-- CUR, the latched selector (10_state R22). -/
  cur : BitVec 4
  npages : Byte
  bankhi : Bank
  addrhi : Byte
  bank : Bank
  /-- CTRL.OPEN (10_state R31). -/
  isOpen : Bool
  /-- CTRL.CSUM_ENFORCE (10_state R31). -/
  csumEnforce : Bool
  status : Status
  deadline : BitVec 16
  /-- DLT, the deadline timer (10_state R34). -/
  dlt : BitVec 16
  /-- RES0 to RES8 (10_state R35). -/
  res : Vector Byte 9
  txsum : Byte
  rxsum : Byte
  rxcs : Byte
  ph : Phase
  idx : BitVec 16
  txbuf : Memory
  rxbuf : Memory
deriving DecidableEq, Repr

/-- The device's protocol-visible state (46_device R251), as the reference responder holds it. -/
structure Device where
  iobank : Bank
  emubank : Bank
  /-- EMUBANK_P, the persistent emulation bank. -/
  emubankP : Bank
  mem : Memory
  /-- How many frames the responder has received: the positions `REJECT` speaks of (46_device R266; log 19). -/
  frames : Nat
deriving DecidableEq, Repr

/-- Which of the two peers of 46_device R250 is attached to the link. -/
inductive Peer
  /-- May send and take any bytes at any time (R250 a). -/
  | unconstrained
  /-- The reference responder (R250 b, R254). -/
  | reference
deriving DecidableEq, Repr

/-- A command line as the host's program writes it (30_encoding R104): each operand is the whole value of a host
register write, so it may exceed its field (`BR 8`), and the register write masks it. -/
inductive Line
  | vv
  | ns
  | zw (n bh ah : HostWord)
  | zr (n bh ah : HostWord)
  | br (b : HostWord)
  | brr
  | bs (b : HostWord)
  | be (b : HostWord)
  | bes
  | ber
deriving DecidableEq, Repr

/-- One atomic step of the HOST agent (10_state R44), or one line of its program (30_encoding R104). -/
inductive HostEvent
  /-- A command line, as the bytes of its header: the operand writes, the CMD write, polling (R104). -/
  | command (header : List Byte)
  /-- A command line as its mnemonic and operands, of any value (R104). -/
  | line (l : Line)
  /-- `OPEN`: CTRL.OPEN <- 1. -/
  | openLine
  /-- `CLOSE`: CTRL.OPEN <- 0. -/
  | closeLine
  /-- A write of `v` to register number `no` (10_state R21). -/
  | write (no : Nat) (v : HostWord)
  /-- A read of register number `no`. -/
  | read (no : Nat)
  /-- A write of `v` to index `i` of TXBUF, buffer port A; its low 8 bits are kept (10_state R21, R38). -/
  | writeTx (i : Nat) (v : HostWord)
  /-- A read of a byte of TXBUF. -/
  | readTx (i : Nat)
  /-- A read of a byte of RXBUF (10_state R39). -/
  | readRx (i : Nat)
  /-- The firmware call `read_range(start, stop, block)`; `none` is the call without a block size (45_windower
  R226). -/
  | readRange (start stop : Int) (block : Option Int)
  /-- The firmware call `write_range(data, start, block)`; `none` is the call without a block size (45_windower R235,
  R237). -/
  | writeRange (data : List Byte) (start : Int) (block : Option Int)
  /-- The consumer of the firmware call in progress asks for its next element (45_windower R223). -/
  | nextElement
deriving DecidableEq, Repr

/-- One step of an agent other than the host. -/
inductive EnvEvent
  /-- The engine's byte step, if it has one. -/
  | engine
  /-- The unconstrained peer appends a byte to `d2h`. -/
  | peerSend (b : Byte)
  /-- The unconstrained peer takes a byte of `h2d`. -/
  | peerTake
  /-- The reference responder's step, if it has one (46_device R254). -/
  | device
  /-- The device's power cycle (46_device R264). -/
  | powerCycle
  /-- A time unit passes (40_transport R128). -/
  | tick
  /-- The free event of a transmit phase (40_transport R129). -/
  | txFail
  /-- The free event of a receive phase (40_transport R129). -/
  | rxTimeout
  /-- The reset input (70_reset R320). -/
  | reset
deriving DecidableEq, Repr

/-- What happens next, and whose step it is (00_scope R8). -/
inductive Event
  | host (e : HostEvent)
  | env (e : EnvEvent)
deriving DecidableEq, Repr

/-- The firmware call in progress (45_windower R226, R237): its inputs and how far it has got. -/
inductive FwCall
  | none
  /-- `a` is the address of the block the next element comes from. -/
  | reading (start stop block a : Nat)
  /-- `off` is the offset of the slice the next element writes. -/
  | writing (data : List Byte) (start block off : Nat)
deriving DecidableEq, Repr

/-- One yielded element (45_windower R226, R237). -/
inductive FwElem
  | chunk (bytes : List Byte)
  | count (n : Nat)
deriving DecidableEq, Repr

/-- How the last firmware call stands (45_windower R225). -/
inductive FwEnd
  | none
  | running
  | finished
  /-- A precondition was violated: no engine register was written. -/
  | rejected
  /-- The command of the last element asked for ended with this error. -/
  | failed (e : ErrKind)
  /-- It was cut short without a result: by CLOSE or reset (40_transport R124, 70_reset R334), or because its command
  was dropped (log 20). -/
  | aborted
deriving DecidableEq, Repr

/-- The whole machine. -/
structure State where
  eng : Engine
  /-- Engine to device (40_transport R122). -/
  h2d : List Byte
  /-- Device to engine (40_transport R122). -/
  d2h : List Byte
  dev : Device
  fw : FwCall
  /-- The elements the last firmware call has yielded, oldest first. -/
  fwOut : List FwElem
  fwEnd : FwEnd
  /-- The model's own: which peer is attached (log 17). -/
  peer : Peer
  /-- The model's own: what the agents do next, in order (log 1). -/
  agenda : List Event
  /-- The model's own: what the host's last read returned (log 22). -/
  readData : HostWord
  /-- The model's own: the index of the next free value (log 11). -/
  free : Nat
deriving DecidableEq, Repr

/-- Why the machine stops although the spec names no engine error. -/
inductive Fault
  /-- A TXBUF byte no write has set since reset is sent by a `ZW` or read by the host (10_state R38, R43; 93 U4).
  Raised by the engine's payload step and the host's read. Safe: the real block goes on with some byte. -/
  | txbufUnwritten
  /-- The host reads an RXBUF byte that no `ZR` has stored since reset (10_state R43; 93 U4). Raised by the host's
  read and the firmware's copy. Safe: the real block returns some byte. -/
  | rxbufUnwritten
  /-- The reference responder reads a memory byte nothing has written (46_device R260; 93 U6). Raised by its `ZR`
  rule. Safe: the real device sends some byte. -/
  | devMemUnwritten
deriving DecidableEq, Repr

/-- Why a host line has no meaning. -/
inductive Refusal
  /-- A command without a meaning in the model: raised by no arm now. Safe. -/
  | notModelled (mnemonic : String)
  /-- The bytes of a command line are no header of the ten commands: raised by the fetch of the line. Safe: no
  line of 30_encoding R104 has such bytes, and nothing reaches the engine. -/
  | illegalHeader (why : DecodeError)
deriving DecidableEq, Repr

/-- STATUS after reset, 0x00 (10_state R43). -/
def Status.reset : Status :=
  { busy := false, done := false, fault := false, csm := false, ovr := false, err := .none }

/-- The block after reset (10_state R43). RES0 to RES8 and RXCS are 0 by DESIGN CHOICE (log 7); no byte of the
buffers has a value (log 9). -/
def Engine.reset : Engine :=
  { cur := 0, npages := 0, bankhi := 0, addrhi := 0, bank := 0, isOpen := false, csumEnforce := false
    status := Status.reset, deadline := Config.deadlineDefault, dlt := 0
    res := Vector.replicate 9 0, txsum := 0, rxsum := 0, rxcs := 0, ph := .idle, idx := 0
    txbuf := [], rxbuf := [] }

/-- The device beside a block that has just been reset for the first time. The spec gives its registers no
power-on value: 0 by DESIGN CHOICE (log 8). -/
def Device.initial : Device :=
  { iobank := 0, emubank := 0, emubankP := 0, mem := [], frames := 0 }

/-- The machine right after reset (70_reset R320): closed and idle, nothing sent, nothing planned. -/
def State.reset : State :=
  { eng := Engine.reset, h2d := [], d2h := [], dev := Device.initial
    fw := .none, fwOut := [], fwEnd := .none
    peer := .unconstrained, agenda := [], readData := 0, free := 0 }

end Sys2Proof.Machine
end

