-- ==== Sys2Proof/Machine/Flags.lean ====
section
/-! DEFINITION. STATUS as the host reads it, its codes, and the named updates of its flags (10_state R32;
60_exceptions R281). -/

namespace Sys2Proof.Machine

/-- The 4-bit code of a phase (10_state R29). -/
def Phase.code : Phase → BitVec 4
  | .idle => 0
  | .txHdr => 1
  | .txPay => 2
  | .txCsum => 3
  | .rxAck => 4
  | .rxByte => 5
  | .rxRaw => 6
  | .rxPay => 7
  | .rxCsum => 8

/-- STATUS.ERR's code (60_exceptions R281). -/
def ErrKind.code : ErrKind → BitVec 3
  | .none => 0
  | .ioWrite => 1
  | .ioRead => 2
  | .nak => 3
  | .csum => 4
  | .precond => 5

/-- The four kinds that set FAULT (60_exceptions R281). -/
def ErrKind.linkFatal : ErrKind → Bool
  | .ioWrite | .ioRead | .nak | .csum => true
  | .none | .precond => false

/-- STATUS as one byte: BUSY 0, DONE 1, FAULT 2, CSM 3, OVR 4, ERR 7:5 (10_state R32). -/
def Status.word (s : Status) : Byte :=
  s.err.code ++ BitVec.ofBool s.ovr ++ BitVec.ofBool s.csm ++ BitVec.ofBool s.fault
    ++ BitVec.ofBool s.done ++ BitVec.ofBool s.busy

/-- The level output `done` an implementation may bring out (60_exceptions R287). -/
def doneOutput (s : State) : Bool := s.eng.status.done

/-- The flags of an operation that ends with a link-fatal error (60_exceptions R290). -/
def Status.raised (s : Status) (k : ErrKind) : Status :=
  { s with err := k, fault := true, done := true, busy := false }

/-- The flags of an operation that completes (41_framer R162). -/
def Status.completed (s : Status) : Status := { s with busy := false, done := true }

/-- The flags of a refused command (41_framer R151, 60_exceptions R286). -/
def Status.refused (s : Status) : Status := { s with err := .precond, done := true }

/-- The flags of an accepted command (41_framer R151). -/
def Status.accepted (s : Status) : Status :=
  { s with err := .none, done := false, busy := true, csm := false }

/-- The flags after OPEN (40_transport R123). -/
def Status.opened (s : Status) : Status :=
  { s with done := false, fault := false, csm := false, ovr := false, err := .none }

/-- A dropped write of a locked register (10_state R27). -/
def Status.overrun (s : Status) : Status := { s with ovr := true }

/-- A response checksum that does not match is recorded (41_framer R160). -/
def Status.mismatched (s : Status) : Status := { s with csm := true }

/-- An operation dropped by CLOSE (40_transport R124). -/
def Status.aborted (s : Status) : Status := { s with busy := false }

/-- The three groups a phase can lie in (41_framer R150). -/
inductive Group
  | idle | transmit | receive
deriving DecidableEq, Repr

/-- The group of a phase (41_framer R150). -/
def Phase.group : Phase → Group
  | .idle => .idle
  | .txHdr | .txPay | .txCsum => .transmit
  | .rxAck | .rxByte | .rxRaw | .rxPay | .rxCsum => .receive

/-- The error with which a group of phases expires (40_transport R128). -/
def Group.expiry : Group → ErrKind
  | .idle => .none
  | .transmit => .ioWrite
  | .receive => .ioRead

end Sys2Proof.Machine
end

