-- ==== Sys2Proof/Machine/Operands.lean ====
section
/-! DEFINITION. Where a command's operands come from: the selectors, the frame header as a function of CUR and the
operand registers (30_encoding R95), and the register numbers of the host port (10_state R21). -/

namespace Sys2Proof.Machine

/-- The CMD selector of a command (10_state R22). -/
def selector : Instr → BitVec 4
  | .vv => 0
  | .ns => 1
  | .zw _ _ _ => 2
  | .zr _ _ _ => 3
  | .br _ => 4
  | .brr => 5
  | .bs _ => 6
  | .be _ => 7
  | .bes => 8
  | .ber => 9

/-- The command a line stands for: each operand masked to its field (10_state R23 to R26; 30_encoding R104). -/
def Line.instr : Line → Instr
  | .vv => .vv
  | .ns => .ns
  | .zw n bh ah => .zw (n.setWidth 8) (bh.setWidth 3) (ah.setWidth 8)
  | .zr n bh ah => .zr (n.setWidth 8) (bh.setWidth 3) (ah.setWidth 8)
  | .br b => .br (b.setWidth 3)
  | .brr => .brr
  | .bs b => .bs (b.setWidth 3)
  | .be b => .be (b.setWidth 3)
  | .bes => .bes
  | .ber => .ber

/-- The command that CUR and the operand registers describe; none for the reserved selectors (30_encoding R95). -/
def Engine.command (e : Engine) : Option Instr :=
  match e.cur.toNat with
  | 0 => some .vv
  | 1 => some .ns
  | 2 => some (.zw e.npages e.bankhi e.addrhi)
  | 3 => some (.zr e.npages e.bankhi e.addrhi)
  | 4 => some (.br e.bank)
  | 5 => some .brr
  | 6 => some (.bs e.bank)
  | 7 => some (.be e.bank)
  | 8 => some .bes
  | 9 => some .ber
  | _ => none

/-- `hdr` of 30_encoding R95. CUR never holds a reserved selector, for which this is empty (log 21). -/
def Engine.hdr (e : Engine) : List Byte :=
  match e.command with
  | some i => encode i
  | none => []

/-- `PLEN` of 30_encoding R95. -/
def Engine.plen (e : Engine) : Nat :=
  match e.command with
  | some i => i.payloadLen
  | none => 0

/-- Whether the request in flight ends in a checksum byte (30_encoding R95). -/
def Engine.checksummed (e : Engine) : Bool :=
  match e.command with
  | some i => i.checksummed
  | none => false

/-- `RLEN` of 41_framer R155: the payload bytes of a checksummed response. -/
def Engine.rlen (e : Engine) : Nat :=
  match e.command with
  | some i =>
    match i.response with
    | .payc m => m
    | _ => 0
  | none => 0

/-- The phase the receive group begins in (41_framer R155). -/
def Engine.rxPhase (e : Engine) : Phase :=
  match e.command with
  | some i =>
    match i.response with
    | .raw3 => .rxRaw
    | .payc _ => .rxPay
    | .ack => .rxAck
    | .byte => .rxByte
  | none => .idle

/-- The registers of the host port (10_state R21). -/
inductive HostReg
  | cmd | npages | bankhi | addrhi | bank | ctrl | status | deadline
  | res (i : Nat)
  | rxsum | rxcs | idx
deriving DecidableEq, Repr

/-- The register of a number; none for 20 and above (10_state R21). -/
def regOfNo (no : Nat) : Option HostReg :=
  match no with
  | 0 => some .cmd
  | 1 => some .npages
  | 2 => some .bankhi
  | 3 => some .addrhi
  | 4 => some .bank
  | 5 => some .ctrl
  | 6 => some .status
  | 7 => some .deadline
  | 17 => some .rxsum
  | 18 => some .rxcs
  | 19 => some .idx
  | k => if 8 ≤ k ∧ k ≤ 16 then some (.res (k - 8)) else none

/-- `bh(addr)`: bits 18 to 16 of a page address (45_windower R222). -/
def bankHighOf (addr : Nat) : Bank := BitVec.ofNat 3 (addr >>> 16)

/-- `ah(addr)`: bits 15 to 8 of a page address (45_windower R222). -/
def addrHighOf (addr : Nat) : Byte := BitVec.ofNat 8 (addr >>> 8)

/-- The page address of a transfer, `(bank-high << 16) | (addr-high << 8)` (20_memory R61). -/
def pageAddress (bh : Bank) (ah : Byte) : Nat := (bh.toNat <<< 16) ||| (ah.toNat <<< 8)

end Sys2Proof.Machine
end

