-- ==== Sys2Proof/Machine/Ops.lean ====
section
/-! DEFINITION. The shared operations: memory, the link, the error entry and the ways out of it, and the engine's
byte steps (41_framer R151 to R162; 60_exceptions R290; 40_transport R123 to R130). -/

namespace Sys2Proof.Machine

/-- The outcome of one step of this machine. -/
abbrev Out := Host.Outcome State Fault Refusal

/-! ### Memory -/

/-- One byte; none where nothing has been written (log 9). -/
def Memory.read : Memory → Nat → Option Byte
  | [], _ => none
  | (a, b) :: m, k => if k = a then some b else Memory.read m k

/-- Stores one byte and keeps the addresses rising. -/
def Memory.write : Memory → Nat → Byte → Memory
  | [], k, v => [(k, v)]
  | (a, b) :: m, k, v =>
    if k < a then (k, v) :: (a, b) :: m
    else if k = a then (k, v) :: m
    else (a, b) :: Memory.write m k v

/-- Every address is above `lo` and below `size`, and the addresses rise. -/
def Memory.wfFrom (size : Nat) : Nat → Memory → Bool
  | _, [] => true
  | lo, (a, _) :: m => decide (lo ≤ a) && decide (a < size) && Memory.wfFrom size (a + 1) m

/-- The canonical form of a memory of `size` bytes: addresses strictly rising, all of them below `size`. -/
def Memory.wf (m : Memory) (size : Nat) : Bool := Memory.wfFrom size 0 m

/-- The bytes at the given addresses, in their order; none if one of them has no value. -/
def Memory.readAt (m : Memory) : List Nat → Option (List Byte)
  | [] => some []
  | a :: as =>
    match m.read a, Memory.readAt m as with
    | some b, some bs => some (b :: bs)
    | _, _ => none

/-- Stores bytes in order, each at its address. -/
def Memory.writeAt (m : Memory) : List (Nat × Byte) → Memory
  | [] => m
  | (a, b) :: rest => Memory.writeAt (m.write a b) rest

/-- The buffer indices `lo` to `lo + n - 1`. -/
def span (lo n : Nat) : List Nat := List.range' lo n

/-- The device addresses of `n` bytes from `p`, wrapping at 2^19 (46_device R261). -/
def deviceSpan (p n : Nat) : List Nat := (List.range n).map fun k => (p + k) % Config.memBytes

/-! ### Parts of the state -/

/-- The state with another engine state. -/
def State.putEng (s : State) (e : Engine) : State := { s with eng := e }

/-- `tx(b)`: the byte joins the tail of `h2d` (00_scope R15). -/
def State.pushH2d (s : State) (b : Byte) : State := { s with h2d := s.h2d ++ [b] }

/-- The state with other bytes on their way to the engine. -/
def State.putD2h (s : State) (q : List Byte) : State := { s with d2h := q }

/-- The state with another plan. -/
def State.putAgenda (s : State) (l : List Event) : State := { s with agenda := l }

/-! ### Ends of an operation -/

/-- `raise Err(kind)` for the four link-fatal kinds: the operation ends, FAULT is set, the link stays open, and
nothing else changes (60_exceptions R290). -/
def Engine.raiseErr (e : Engine) (k : ErrKind) : Engine :=
  { e with status := e.status.raised k, ph := .idle }

/-- OPEN, the second half of the way out of FAULT (60_exceptions R292): the flags, PH and IDX are cleared
(40_transport R123). -/
def Engine.opened (e : Engine) : Engine :=
  { e with isOpen := true, status := e.status.opened, ph := .idle, idx := 0 }

/-- CLOSE, the first half of that way: an operation in flight is dropped (40_transport R124). -/
def Engine.closed (e : Engine) : Engine :=
  if e.ph = .idle then { e with isOpen := false }
  else { e with isOpen := false, ph := .idle, status := e.status.aborted }

/-- `complete()` (41_framer R162). -/
def Engine.complete (e : Engine) : Engine :=
  { e with ph := .idle, idx := 0, status := e.status.completed }

/-- OPEN with its effect on the link: bytes received while closed are discarded (40_transport R123). -/
def openLink (s : State) : State := { s with eng := s.eng.opened, d2h := [] }

/-- A firmware call in progress ends without a result and cannot be resumed: closing is the abort of a sequence
(40_transport R124; 70_reset R334, R341; log 20). -/
def abandonCall (s : State) : State :=
  { s with fw := .none, fwEnd := if s.fw = .none then s.fwEnd else .aborted }

/-- CLOSE; bytes already sent are not recalled, and a firmware call in progress is aborted (40_transport R124). -/
def closeLink (s : State) : State := (abandonCall s).putEng s.eng.closed

/-- The reset input: every register of the block takes its reset value, and the link and the device keep theirs
(70_reset R320, R321). The link is closed by it, so a firmware call in progress is aborted (70_reset R334; log 20). -/
def resetBlock (s : State) : State := (abandonCall s).putEng Engine.reset

/-! ### Acceptance -/

/-- The checks of acceptance (41_framer R151, 60_exceptions R286). -/
def Engine.refuses (e : Engine) (sel : BitVec 4) : Bool :=
  !e.isOpen || e.status.fault || decide (10 ≤ sel.toNat)
    || ((sel == 2 || sel == 3) && (e.npages == 0 || decide (Config.maxPages < e.npages.toNat)))

/-- Acceptance of a command (41_framer R151) by an engine that is not BUSY. -/
def Engine.accept (e : Engine) (sel : BitVec 4) : Engine :=
  if e.refuses sel then { e with status := { e.status with done := false, err := .none }.refused }
  else
    { e with
      cur := sel, status := e.status.accepted, txsum := 0, rxsum := 0, idx := 0, dlt := 0, ph := .txHdr }

/-! ### Transmit steps -/

/-- `enter_rx()` (41_framer R155). -/
def Engine.enterRx (e : Engine) : Engine := { e with idx := 0, dlt := 0, ph := e.rxPhase }

/-- TXSUM accumulates a byte that has been sent (10_state R30). -/
def Engine.summedTx (e : Engine) (b : Byte) : Engine := { e with txsum := e.txsum + b }

/-- PH and IDX move. -/
def Engine.moveTo (e : Engine) (p : Phase) (i : BitVec 16) : Engine := { e with ph := p, idx := i }

/-- The byte a transmit phase sends next (41_framer R152 to R154); none where TXBUF has no value there. -/
def Engine.txByte (e : Engine) : Option Byte :=
  match e.ph with
  | .txHdr => some (e.hdr.getD e.idx.toNat 0)
  | .txPay => e.txbuf.read e.idx.toNat
  | .txCsum => some e.txsum
  | _ => none

/-- The engine after it has sent header byte `b` (41_framer R152). -/
def Engine.afterHdr (e : Engine) (b : Byte) : Engine :=
  if e.idx.toNat + 1 < e.hdr.length then (e.summedTx b).moveTo e.ph (e.idx + 1)
  else if 0 < e.plen then (e.summedTx b).moveTo .txPay 0
  else if e.checksummed then (e.summedTx b).moveTo .txCsum 0
  else (e.summedTx b).enterRx

/-- The engine after it has sent payload byte `b` (41_framer R153). -/
def Engine.afterPay (e : Engine) (b : Byte) : Engine :=
  if e.idx.toNat + 1 < e.plen then (e.summedTx b).moveTo e.ph (e.idx + 1)
  else (e.summedTx b).moveTo .txCsum 0

/-- The engine after it has sent byte `b` of its request frame. -/
def Engine.afterTx (e : Engine) (b : Byte) : Engine :=
  match e.ph with
  | .txHdr => e.afterHdr b
  | .txPay => e.afterPay b
  | .txCsum => e.enterRx
  | _ => e

/-! ### Receive steps -/

/-- A result register takes a byte (10_state R35). -/
def Engine.setRes (e : Engine) (i : Nat) (b : Byte) : Engine := { e with res := e.res.setIfInBounds i b }

/-- The acknowledgement byte arrives (41_framer R156). -/
def Engine.afterAck (e : Engine) (k : Byte) : Engine :=
  if k = Config.ackByte then e.complete else (e.setRes 0 k).raiseErr .nak

/-- The one unchecked reply byte arrives, unmasked (41_framer R157, 10_state R36). -/
def Engine.afterByte (e : Engine) (b : Byte) : Engine := (e.setRes 0 b).complete

/-- A raw byte of `VV` arrives (41_framer R158). -/
def Engine.afterRaw (e : Engine) (b : Byte) : Engine :=
  if e.idx.toNat + 1 < 3 then (e.setRes e.idx.toNat b).moveTo e.ph (e.idx + 1)
  else (e.setRes e.idx.toNat b).complete

/-- A payload byte of a checksummed response is stored: RES for `NS`, RXBUF for `ZR` (41_framer R159). -/
def Engine.storePay (e : Engine) (b : Byte) : Engine :=
  if e.cur = 1 then e.setRes e.idx.toNat b else { e with rxbuf := e.rxbuf.write e.idx.toNat b }

/-- RXSUM accumulates a payload byte that has arrived (10_state R30). -/
def Engine.summedRx (e : Engine) (b : Byte) : Engine := { e with rxsum := e.rxsum + b }

/-- A payload byte of a checksummed response arrives (41_framer R159). -/
def Engine.afterPayload (e : Engine) (b : Byte) : Engine :=
  ((e.storePay b).summedRx b).moveTo (if (e.idx + 1).toNat = e.rlen then .rxCsum else e.ph) (e.idx + 1)

/-- RXCS takes the checksum byte (10_state R37). -/
def Engine.tookCsum (e : Engine) (c : Byte) : Engine := { e with rxcs := c }

/-- STATUS.CSM records a mismatch (41_framer R143). -/
def Engine.mismatched (e : Engine) : Engine := { e with status := e.status.mismatched }

/-- The response's checksum byte arrives: a mismatch is always recorded and escalated only under CSUM_ENFORCE
(41_framer R160). -/
def Engine.afterCsum (e : Engine) (c : Byte) : Engine :=
  if c = e.rxsum then (e.tookCsum c).complete
  else if e.csumEnforce then (e.tookCsum c).mismatched.raiseErr .csum
  else (e.tookCsum c).mismatched.complete

/-- The engine after it has taken byte `b` from `d2h`. -/
def Engine.afterRx (e : Engine) (b : Byte) : Engine :=
  match e.ph with
  | .rxAck => e.afterAck b
  | .rxByte => e.afterByte b
  | .rxRaw => e.afterRaw b
  | .rxPay => e.afterPayload b
  | .rxCsum => e.afterCsum b
  | _ => e

/-! ### One step of the engine -/

/-- Whether the engine has a byte step: always in a transmit phase, in a receive phase when `d2h` is not empty
(40_transport R130). -/
def byteEnabled (s : State) : Bool :=
  match s.eng.ph.group with
  | .idle => false
  | .transmit => true
  | .receive => !s.d2h.isEmpty

/-- The engine's byte step (41_framer R152 to R160). An engine that has none stays as it is (log 16). -/
def byteStep (s : State) : Out :=
  match s.eng.ph.group with
  | .idle => .next s
  | .transmit =>
    match s.eng.txByte with
    | some b => .next ((s.pushH2d b).putEng (s.eng.afterTx b))
    | none => .fault .txbufUnwritten
  | .receive =>
    match s.d2h with
    | [] => .next s
    | b :: rest => .next ((s.putD2h rest).putEng (s.eng.afterRx b))

/-! ### Time -/

/-- The group in progress expires (40_transport R128, R129). -/
def expire (s : State) : State := s.putEng (s.eng.raiseErr s.eng.ph.group.expiry)

/-- The timer counts one time unit (10_state R34). -/
def countUnit (s : State) : State := s.putEng { s.eng with dlt := s.eng.dlt + 1 }

/-- Whether the next time unit reaches the deadline (40_transport R128). -/
def Engine.due (e : Engine) : Bool := decide (e.deadline.toNat ≤ (e.dlt + 1).toNat)

/-- One time unit passes (40_transport R128). Where the deadline is reached and the engine has a byte step at that
instant, the byte step is taken first and the expiry applies only if the group goes on (60_exceptions R288 (3);
log 13). -/
def tick (s : State) : Out :=
  if s.eng.ph = .idle then .next s
  else if s.eng.due then
    if byteEnabled s then
      match byteStep s with
      | .next s' => .next (if s'.eng.ph.group = s.eng.ph.group then expire (countUnit s') else s')
      | .fault f => .fault f
      | .refused r => .refused r
    else .next (expire (countUnit s))
  else .next (countUnit s)

/-- The free event `tx_fail` (40_transport R129). -/
def txFail (s : State) : State := if s.eng.ph.group = .transmit then expire s else s

/-- The free event `rx_timeout` (40_transport R129). -/
def rxTimeout (s : State) : State := if s.eng.ph.group = .receive then expire s else s

end Sys2Proof.Machine
end

