-- ==== Sys2Proof/Machine/Device.lean ====
section
/-! DEFINITION. The device peer: the reference responder, its power cycle, and the moves of the unconstrained peer
(46_device R250 to R267). -/

namespace Sys2Proof.Machine

/-- Whether a command's response is an acknowledgement: the commands a device may reject (46_device R266). -/
def acknowledged (i : Instr) : Bool := decide (i.response = .ack)

/-- The bank a transfer reaches, by the open parameter `IOBANK_MODE` (46_device R262). -/
def Device.transferBank (d : Device) (bh : Bank) : Bank :=
  match Config.ioBankMode with
  | .ignored => bh
  | .added => bh + d.iobank

/-- The addresses of a transfer (46_device R259 to R262). -/
def Device.transferSpan (d : Device) (n : Byte) (bh : Bank) (ah : Byte) : List Nat :=
  deviceSpan (pageAddress (d.transferBank bh) ah) (256 * n.toNat)

/-- `p ++ [sum8(p)]`: a checksummed response (46_device R256, R260). -/
def summed (p : List Byte) : List Byte := p ++ [sum8 p]

/-- `VENDOR_ID` and the 8 serial bytes (46_device R256). -/
def identityPayload : List Byte := Config.vendorId :: List.ofFn Config.serial

/-- What the responder does with one frame it does not reject: its new state and its response (46_device R255 to
R263); none where a `ZR` reads a byte without a value (46_device R260). -/
def Device.apply (d : Device) (i : Instr) (payload : List Byte) : Option (Device × List Byte) :=
  match i with
  | .vv => some (d, [Config.devType, Config.devVersion, Config.devId])
  | .ns => some (d, summed identityPayload)
  | .zw n bh ah =>
    some ({ d with mem := d.mem.writeAt ((d.transferSpan n bh ah).zip payload) }, [Config.ackByte])
  | .zr n bh ah =>
    match d.mem.readAt (d.transferSpan n bh ah) with
    | some p => some (d, summed p)
    | none => none
  | .br b => some ({ d with iobank := b }, [Config.ackByte])
  | .brr => some (d, [byteOfBank d.iobank])
  | .bs b =>
    some ({ d with emubankP := b, emubank := if Config.bsUpdatesActive then b else d.emubank }, [Config.ackByte])
  | .be b => some ({ d with emubank := b }, [Config.ackByte])
  | .bes => some (d, [byteOfBank d.emubankP])
  | .ber => some (d, [byteOfBank d.emubank])

/-- The responder's answer to one frame: the frame is counted, a rejected one changes nothing else and is answered
with `NAK_BYTE` (46_device R254, R266). -/
def Device.respond (d : Device) (i : Instr) (payload : List Byte) : Option (Device × List Byte) :=
  let d' := { d with frames := d.frames + 1 }
  if Config.reject d'.frames && acknowledged i then some (d', [Config.nakByte]) else d'.apply i payload

/-- Whether the reference responder is attached and the head of `h2d` is a whole well-formed frame (46_device R254,
R265). -/
def deviceEnabled (s : State) : Bool :=
  decide (s.peer = .reference) &&
    match decodeFrame s.h2d with
    | .ok _ => true
    | .error _ => false

/-- The reference responder's one step (46_device R254). One that has none stays as it is: it waits for the rest of
a frame, or it is stuck on a bad one (46_device R265; log 16). -/
def deviceStep (s : State) : Out :=
  if s.peer = .reference then
    match decodeFrame s.h2d with
    | .ok (i, payload, rest) =>
      match s.dev.respond i payload with
      | some (d, r) => .next { s with h2d := rest, d2h := s.d2h ++ r, dev := d }
      | none => .fault .devMemUnwritten
    | .error _ => .next s
  else .next s

/-- The device's power cycle (46_device R264): EMUBANK_P keeps its value and EMUBANK takes it, IOBANK takes any
value, MEM loses its values, and the bytes on their way to the device are lost. -/
def powerCycle (s : State) : State :=
  { s with
    h2d := []
    dev := { s.dev with emubank := s.dev.emubankP, iobank := Config.anyBank s.free, mem := [] }
    free := s.free + 1 }

/-- The unconstrained peer appends a byte to `d2h` (46_device R250 a). The reference responder never does unasked. -/
def peerSend (s : State) (b : Byte) : State :=
  if s.peer = .unconstrained then s.putD2h (s.d2h ++ [b]) else s

/-- The unconstrained peer takes a byte of `h2d` (46_device R250 a). -/
def peerTake (s : State) : State :=
  if s.peer = .unconstrained then { s with h2d := s.h2d.drop 1 } else s

end Sys2Proof.Machine
end

