-- ==== Sys2Proof/Machine/HostPort.lean ====
section
/-! DEFINITION. The host's register port and buffer ports (10_state R21 to R27, R31, R44). -/

namespace Sys2Proof.Machine

/-- The engine's status with OVR set: what a dropped write leaves (10_state R27). -/
def overrun (s : State) : State := s.putEng { s.eng with status := s.eng.status.overrun }

/-- A host write of a register that is locked while BUSY (10_state R27). -/
def lockedWrite (s : State) (f : Engine → Engine) : State :=
  if s.eng.status.busy then overrun s else s.putEng (f s.eng)

/-- A host write to CTRL (10_state R31). While BUSY only a close acts, and it leaves OVR as it is; any other write
is dropped with OVR (log 14). -/
def writeCtrl (s : State) (v : HostWord) : State :=
  if s.eng.status.busy then
    if s.eng.isOpen && !v.getLsbD 0 then closeLink s else overrun s
  else
    let s' := if v.getLsbD 0 = s.eng.isOpen then s else if v.getLsbD 0 then openLink s else closeLink s
    s'.putEng { s'.eng with csumEnforce := v.getLsbD 1 }

/-- A host write of `v` to a register: the low bits of its width are kept (10_state R21 to R27). Read-only registers
do not change. -/
def writeReg (r : HostReg) (v : HostWord) (s : State) : State :=
  match r with
  | .cmd => lockedWrite s fun e => e.accept (v.setWidth 4)
  | .npages => lockedWrite s fun e => { e with npages := v.setWidth 8 }
  | .bankhi => lockedWrite s fun e => { e with bankhi := v.setWidth 3 }
  | .addrhi => lockedWrite s fun e => { e with addrhi := v.setWidth 8 }
  | .bank => lockedWrite s fun e => { e with bank := v.setWidth 3 }
  | .ctrl => writeCtrl s v
  | .deadline => lockedWrite s fun e => { e with deadline := v.setWidth 16 }
  | .status => s
  | .res _ => s
  | .rxsum => s
  | .rxcs => s
  | .idx => s

/-- A host write by register number; a number of 20 or above has no register (10_state R21). -/
def writeNo (no : Nat) (v : HostWord) (s : State) : State :=
  match regOfNo no with
  | some r => writeReg r v s
  | none => s

/-- The value of CTRL (10_state R31). -/
def Engine.ctrlWord (e : Engine) : HostWord :=
  (BitVec.ofBool e.csumEnforce ++ BitVec.ofBool e.isOpen).setWidth 32

/-- What a read returns, for the host to see (log 22). -/
def returns (s : State) (v : HostWord) : State := { s with readData := v }

/-- A read without a value returns any value of `w` bits: a free value, and the next one will be another
(93 U3, U9; log 11). -/
def returnsAny (s : State) (w : Nat) : State :=
  { s with readData := ((Config.anyRead s.free).setWidth w).setWidth 32, free := s.free + 1 }

/-- A host read of a register, zero-extended (10_state R21). RES has no stated value while BUSY (10_state R35). -/
def readReg (r : HostReg) (s : State) : State :=
  match r with
  | .cmd => returns s (s.eng.cur.setWidth 32)
  | .npages => returns s (s.eng.npages.setWidth 32)
  | .bankhi => returns s (s.eng.bankhi.setWidth 32)
  | .addrhi => returns s (s.eng.addrhi.setWidth 32)
  | .bank => returns s (s.eng.bank.setWidth 32)
  | .ctrl => returns s s.eng.ctrlWord
  | .status => returns s (s.eng.status.word.setWidth 32)
  | .deadline => returns s (s.eng.deadline.setWidth 32)
  | .res i => if s.eng.status.busy then returnsAny s 8 else returns s ((s.eng.res.getD i 0).setWidth 32)
  | .rxsum => returns s (s.eng.rxsum.setWidth 32)
  | .rxcs => returns s (s.eng.rxcs.setWidth 32)
  | .idx => returns s (s.eng.idx.setWidth 32)

/-- A host read by register number; a number of 20 or above returns any value (93 U9). -/
def readNo (no : Nat) (s : State) : State :=
  match regOfNo no with
  | some r => readReg r s
  | none => returnsAny s 32

/-- A host write to TXBUF, of which the low 8 bits are kept (10_state R21): no effect past its end (93 U9), dropped
with OVR while BUSY (10_state R27, R38). -/
def writeTxbuf (i : Nat) (v : HostWord) (s : State) : State :=
  if i < Config.bufBytes then lockedWrite s fun e => { e with txbuf := e.txbuf.write i (v.setWidth 8) } else s

/-- A host read of TXBUF (10_state R21): any value past its end, a fault where it has no value (93 U4, U9). -/
def readTxbuf (i : Nat) (s : State) : Out :=
  if i < Config.bufBytes then
    match s.eng.txbuf.read i with
    | some b => .next (returns s (b.setWidth 32))
    | none => .fault .txbufUnwritten
  else .next (returnsAny s 8)

/-- A host read of RXBUF (10_state R39): any value while BUSY or past its end, a fault where it has no value
(93 U3, U4, U9). -/
def readRxbuf (i : Nat) (s : State) : Out :=
  if i < Config.bufBytes then
    if s.eng.status.busy then .next (returnsAny s 8)
    else
      match s.eng.rxbuf.read i with
      | some b => .next (returns s (b.setWidth 32))
      | none => .fault .rxbufUnwritten
  else .next (returnsAny s 8)

/-- The line `OPEN`: CTRL.OPEN <- 1, the other bit as it is (30_encoding R104). -/
def hostOpen (s : State) : State := writeCtrl s (s.eng.ctrlWord ||| 1)

/-- The line `CLOSE`: CTRL.OPEN <- 0, the other bit as it is (30_encoding R104). -/
def hostClose (s : State) : State := writeCtrl s (s.eng.ctrlWord &&& 2)

end Sys2Proof.Machine
end

