-- ==== Sys2Proof/Machine/Schedule.lean ====
section
/-! DEFINITION. Which agent moves, and one command line as the host's program has it: register writes, then polling
until the operation has ended (00_scope R8; 30_encoding R104; log 1, log 2). -/

namespace Sys2Proof.Machine

/-- One step of an agent other than the host. -/
def envStep (e : EnvEvent) (s : State) : Out :=
  match e with
  | .engine => byteStep s
  | .peerSend b => .next (peerSend s b)
  | .peerTake => .next (peerTake s)
  | .device => deviceStep s
  | .powerCycle => .next (powerCycle s)
  | .tick => tick s
  | .txFail => .next (txFail s)
  | .rxTimeout => .next (rxTimeout s)
  | .reset => .next (resetBlock s)

/-- Who moves when the agenda does not say: the engine if it has a byte step, else the reference responder if it is
attached and has a step (46_device R268), else time (40_transport R130; log 2). -/
def autoStep (s : State) : Out :=
  if byteEnabled s then byteStep s else if deviceEnabled s then deviceStep s else tick s

/-- One step while the host only polls: the agenda's next event if it is not the host's, else as above. -/
def pollStep (s : State) : Out :=
  match s.agenda with
  | .env e :: rest => envStep e (s.putAgenda rest)
  | _ => autoStep s

/-- The host polls until no operation is in flight (log 3). -/
def poll : Nat → State → Out
  | 0, s => .next s
  | n + 1, s =>
    if s.eng.ph = .idle then .next s
    else
      match pollStep s with
      | .next s' => poll n s'
      | .fault f => .fault f
      | .refused r => .refused r

/-- More steps than any operation can take before it ends: 65286 bytes sent, 65281 received, the responder's
frames, 65536 time units (log 3). -/
def pollLimit (s : State) : Nat := s.agenda.length + s.h2d.length + 400000

/-- Polling until the operation in flight has ended. -/
def awaitIdle (s : State) : Out := poll (pollLimit s) s

/-- The host's register writes, in order. -/
def writeRegs : List (HostReg × HostWord) → State → State
  | [], s => s
  | (r, v) :: ws, s => writeRegs ws (writeReg r v s)

/-- One command line (30_encoding R104): the operand writes, the CMD write with the selector, polling. -/
def commandLine (writes : List (HostReg × HostWord)) (sel : BitVec 4) (s : State) : Out :=
  awaitIdle (writeReg .cmd (sel.setWidth 32) (writeRegs writes s))

/-- The operand writes of a transfer line, of any values (30_encoding R104). -/
def transferWrites (n bh ah : HostWord) : List (HostReg × HostWord) := [(.npages, n), (.bankhi, bh), (.addrhi, ah)]

/-- The operand write of a set-bank line, of any value (30_encoding R104). -/
def bankWrites (b : HostWord) : List (HostReg × HostWord) := [(.bank, b)]

/-- The operand writes of a line, as its operands stand (30_encoding R104). -/
def Line.writes : Line → List (HostReg × HostWord)
  | .zw n bh ah => transferWrites n bh ah
  | .zr n bh ah => transferWrites n bh ah
  | .br b => bankWrites b
  | .bs b => bankWrites b
  | .be b => bankWrites b
  | .vv => []
  | .ns => []
  | .brr => []
  | .bes => []
  | .ber => []

/-- A line with operands of any value: the register writes mask them (30_encoding R104). -/
def runLine (l : Line) (s : State) : Out := commandLine l.writes (selector l.instr) s

end Sys2Proof.Machine
end

