-- ==== Sys2Proof/Machine/BankSelect.lean ====
section
/-! DEFINITION. The bank-select commands (44_bank R200 to R205). -/

namespace Sys2Proof.Machine

/-- `BR b`: sends the I/O bank and waits for the acknowledgement (44_bank R200). -/
def execBr (b : Bank) (s : State) : Out := commandLine (bankWrites (b.setWidth 32)) 4 s

/-- `BRR`: stores the I/O bank byte the device answers in RES0 (44_bank R201). -/
def execBrr (s : State) : Out := commandLine [] 5 s

/-- `BS b`: sends the persistent emulation bank and waits for the acknowledgement (44_bank R202). -/
def execBs (b : Bank) (s : State) : Out := commandLine (bankWrites (b.setWidth 32)) 6 s

/-- `BE b`: sends the volatile emulation bank and waits for the acknowledgement (44_bank R203). -/
def execBe (b : Bank) (s : State) : Out := commandLine (bankWrites (b.setWidth 32)) 7 s

/-- `BES`: stores the persistent emulation bank byte the device answers in RES0 (44_bank R204). -/
def execBes (s : State) : Out := commandLine [] 8 s

/-- `BER`: stores the volatile emulation bank byte the device answers in RES0 (44_bank R205). -/
def execBer (s : State) : Out := commandLine [] 9 s

end Sys2Proof.Machine
end

