-- ==== Sys2Proof/Machine/Identity.lean ====
section
/-! DEFINITION. The identity commands (42_identity R170, R171). -/

namespace Sys2Proof.Machine

/-- `VV`: sends `56 56` and stores 3 raw bytes in RES0 to RES2 (42_identity R170). -/
def execVv (s : State) : Out := commandLine [] 0 s

/-- `NS`: sends `4E 53 A1` and stores 9 checksummed bytes in RES0 to RES8 (42_identity R171). -/
def execNs (s : State) : Out := commandLine [] 1 s

end Sys2Proof.Machine
end

