-- ==== Sys2Proof/Machine/MemTransfer.lean ====
section
/-! DEFINITION. The memory transfer commands (43_memory R180, R181). -/

namespace Sys2Proof.Machine

/-- `ZW n, bh, ah`: sends the first `256*n` bytes of TXBUF and waits for the acknowledgement (43_memory R180). -/
def execZw (n : Byte) (bh : Bank) (ah : Byte) (s : State) : Out :=
  commandLine (transferWrites (n.setWidth 32) (bh.setWidth 32) (ah.setWidth 32)) 2 s

/-- `ZR n, bh, ah`: stores `256*n` checksummed bytes in RXBUF (43_memory R181). -/
def execZr (n : Byte) (bh : Bank) (ah : Byte) (s : State) : Out :=
  commandLine (transferWrites (n.setWidth 32) (bh.setWidth 32) (ah.setWidth 32)) 3 s

end Sys2Proof.Machine
end

