-- ==== Sys2Proof/Machine/Dispatch.lean ====
section
/-! DEFINITION. The meaning of each command. -/

namespace Sys2Proof.Machine

def exec (i : Instr) (s : State) : Host.Outcome State Fault Refusal :=
  match i with
  | .vv => Sys2Proof.Machine.execVv s
  | .ns => Sys2Proof.Machine.execNs s
  | .zw n bh ah => Sys2Proof.Machine.execZw n bh ah s
  | .zr n bh ah => Sys2Proof.Machine.execZr n bh ah s
  | .br b => Sys2Proof.Machine.execBr b s
  | .brr => Sys2Proof.Machine.execBrr s
  | .bs b => Sys2Proof.Machine.execBs b s
  | .be b => Sys2Proof.Machine.execBe b s
  | .bes => Sys2Proof.Machine.execBes s
  | .ber => Sys2Proof.Machine.execBer s

end Sys2Proof.Machine
end

