-- ==== Sys2Proof/Machine/Firmware.lean ====
section
/-! DEFINITION. The firmware above the block: the windower's two calls, one element at a time, the source's names for
the commands, and the rendering of a serial number (45_windower R220 to R237; 30_encoding R105; 20_memory R68). -/

namespace Sys2Proof.Machine

/-- Rounds a byte address down to its page (45_windower R226). -/
def pageFloor (a : Nat) : Nat := a - a % 256

/-- The block size of a call: `DEFAULT_BLOCK` where the call gives none (00_scope R9; 45_windower R226, R235). -/
def blockOrDefault (block : Option Int) : Int := block.getD (Config.defaultBlock : Int)

/-- A block size the firmware accepts (45_windower R221). -/
def legalBlock (block : Int) : Bool :=
  decide (block % 256 = 0) && decide (256 ≤ block) && decide (block ≤ (Config.bufBytes : Int))

/-- The preconditions of `read_range` (45_windower R221, R224, R227). -/
def legalRead (start stop block : Int) : Bool :=
  decide (0 ≤ start) && decide (start ≤ stop) && decide (stop < (Config.memBytes : Int)) && legalBlock block

/-- The preconditions of `write_range` (45_windower R221, R224, R236). -/
def legalWrite (len : Nat) (start block : Int) : Bool :=
  decide (len % 256 = 0) && decide (0 ≤ start) && decide (start % 256 = 0)
    && decide (start + (len : Int) ≤ (Config.memBytes : Int)) && legalBlock block

/-- One transfer of a `read_range`: its address, its length, and what is trimmed at each end. -/
structure ReadBlock where
  addr : Nat
  size : Nat
  leadTrim : Nat
  tailTrim : Nat
deriving DecidableEq, Repr

/-- The whole pages of slack before `start` in the block at `a`; always 0 (45_windower R226 step 2, R229). -/
def leadPages (start a : Nat) : Nat := if a < start then (start - a) / 256 else 0

/-- How far the block at `a` runs past `stop` (45_windower R226 step 3). -/
def excess (stop block a : Nat) : Nat := if stop < a + block - 1 then a + block - (stop + 1) else 0

/-- The transfer for the block at `a` (45_windower R226, steps 1 to 3). -/
def readBlockAt (start stop block a : Nat) : ReadBlock :=
  { addr := a + 256 * leadPages start a
    size := block - 256 * leadPages start a - 256 * (excess stop block a / 256)
    leadTrim := if a < start then (start - a) % 256 else 0
    tailTrim := excess stop block a % 256 }

/-- `aligned_end_exclusive` (45_windower R226). -/
def alignedEnd (stop : Nat) : Nat := pageFloor stop + 256

/-- How many times the loop of `read_range` runs (45_windower R228 (a)). -/
def blockCount (start stop block : Nat) : Nat :=
  (alignedEnd stop - pageFloor start + block - 1) / block

/-- Every transfer of a `read_range`, in order (45_windower R226). -/
def readPlan (start stop block : Nat) : List ReadBlock :=
  (List.range (blockCount start stop block)).map fun j => readBlockAt start stop block (pageFloor start + j * block)

/-- The `ZR` of a transfer (45_windower R226 step 4). -/
def ReadBlock.command (b : ReadBlock) : Instr :=
  .zr (BitVec.ofNat 8 (b.size / 256)) (bankHighOf b.addr) (addrHighOf b.addr)

/-- The length of the slice `write_range` sends at offset `off` (45_windower R237). -/
def sliceLen (len block off : Nat) : Nat := min block (len - off)

/-- Every slice of a `write_range`: its address and its length (45_windower R237). -/
def writePlan (len start block : Nat) : List (Nat × Nat) :=
  (List.range ((len + block - 1) / block)).map fun j => (start + j * block, sliceLen len block (j * block))

/-- The `ZW` of a slice of `m` bytes at `addr` (45_windower R237). -/
def sliceCommand (addr m : Nat) : Instr := .zw (BitVec.ofNat 8 (m / 256)) (bankHighOf addr) (addrHighOf addr)

/-- A `read_range` call: checked before any engine register is written (45_windower R225 (a), R226). -/
def startRead (start stop block : Int) (s : State) : State :=
  if legalRead start stop block then
    { s with
      fw := .reading start.toNat stop.toNat block.toNat (pageFloor start.toNat), fwOut := [], fwEnd := .running }
  else { s with fw := .none, fwOut := [], fwEnd := .rejected }

/-- A `write_range` call: checked before any engine register is written (45_windower R236, R237). -/
def startWrite (data : List Byte) (start block : Int) (s : State) : State :=
  if legalWrite data.length start block then
    if data = [] then { s with fw := .none, fwOut := [], fwEnd := .finished }
    else { s with fw := .writing data start.toNat block.toNat 0, fwOut := [], fwEnd := .running }
  else { s with fw := .none, fwOut := [], fwEnd := .rejected }

/-- The call ends because its command did (45_windower R225 (b)), or because that command was dropped (log 20). -/
def fwFail (s : State) : State :=
  { s with fw := .none, fwEnd := if s.eng.status.err = .none then .aborted else .failed s.eng.status.err }

/-- Whether the command issued in `s` has itself reached DONE with ERR = NONE in `s'` (45_windower R223). One issued
while another operation is in flight is dropped with OVR (10_state R27), so what DONE and ERR then report is that other
operation's end: the element does not exist, and the call ends there. That it ends is a DESIGN CHOICE, log 20; the
spec describes no firmware beside a raw CMD write. -/
def commandOk (s s' : State) : Bool :=
  !s.eng.status.busy && s'.eng.status.done && decide (s'.eng.status.err = .none)

/-- The call yields an element and goes on with `next`, or is finished (45_windower R226, R237). -/
def fwYield (e : FwElem) (next : FwCall) (s : State) : State :=
  { s with
    fw := next, fwOut := s.fwOut ++ [e]
    fwEnd := if next = .none then .finished else .running }

/-- The host's writes of a slice to TXBUF, from index `k` on (45_windower R237). -/
def fillTxbuf : Nat → List Byte → State → State
  | _, [], s => s
  | k, b :: bs, s => fillTxbuf (k + 1) bs (writeTxbuf k (b.setWidth 32) s)

/-- The next element of a `read_range`: one `ZR`, then the trimmed copy out of RXBUF (45_windower R226). -/
def nextRead (start stop block a : Nat) (s : State) : Out :=
  let b := readBlockAt start stop block a
  match execZr (BitVec.ofNat 8 (b.size / 256)) (bankHighOf b.addr) (addrHighOf b.addr) s with
  | .next s' =>
    if commandOk s s' then
      match s'.eng.rxbuf.readAt (span b.leadTrim (b.size - b.tailTrim - b.leadTrim)) with
      | some bytes =>
        .next (fwYield (.chunk bytes)
          (if a + block < alignedEnd stop then .reading start stop block (a + block) else .none) s')
      | none => .fault .rxbufUnwritten
    else .next (fwFail s')
  | .fault f => .fault f
  | .refused r => .refused r

/-- The next element of a `write_range`: the slice into TXBUF, then one `ZW` (45_windower R237). -/
def nextWrite (data : List Byte) (start block off : Nat) (s : State) : Out :=
  let m := sliceLen data.length block off
  let s := fillTxbuf 0 ((data.drop off).take m) s
  match execZw (BitVec.ofNat 8 (m / 256)) (bankHighOf (start + off)) (addrHighOf (start + off)) s with
  | .next s' =>
    if commandOk s s' then
      .next (fwYield (.count m) (if off + block < data.length then .writing data start block (off + block) else .none) s')
    else .next (fwFail s')
  | .fault f => .fault f
  | .refused r => .refused r

/-- The consumer asks for the next element; without a call in progress nothing happens (45_windower R223), so a call
that CLOSE or reset has aborted (`abandonCall`) is not resumed (70_reset R341). Another command between two elements
leaves the call in progress: DESIGN CHOICE, log 20. -/
def nextElement (s : State) : Out :=
  match s.fw with
  | .none => .next s
  | .reading start stop block a => nextRead start stop block a s
  | .writing data start block off => nextWrite data start block off s

/-- The source's names for what a host can ask (30_encoding R105). -/
inductive SourceCall
  | connect
  | disconnect
  | version
  | serialNumber
  | setIoBank (n : Nat)
  | getIoBank
  | setEmulationBank (n : Nat) (persistent : Bool)
  | getEmulationBank (persistent : Bool)
  | readRange (start stop : Int) (block : Option Int)
  | writeRange (data : List Byte) (start : Int) (block : Option Int)
deriving DecidableEq, Repr

/-- The host line each name expands to (30_encoding R105); the register write wraps the bank numbers (44_bank
R206). -/
def SourceCall.expand : SourceCall → HostEvent
  | .connect => .openLine
  | .disconnect => .closeLine
  | .version => .line .vv
  | .serialNumber => .line .ns
  | .setIoBank n => .line (.br (BitVec.ofNat 32 n))
  | .getIoBank => .line .brr
  | .setEmulationBank n p => .line (if p then .bs (BitVec.ofNat 32 n) else .be (BitVec.ofNat 32 n))
  | .getEmulationBank p => .line (if p then .bes else .ber)
  | .readRange start stop block => .readRange start stop block
  | .writeRange data start block => .writeRange data start block

/-- A hexadecimal digit, lower case (20_memory R68). -/
def hexDigit (d : Nat) : Char := if d < 10 then Char.ofNat (0x30 + d) else Char.ofNat (0x57 + d)

/-- The serial bytes as lower-case hex digit pairs, high nibble first (20_memory R68). -/
def renderSerial : List Byte → List Char
  | [] => []
  | b :: bs => hexDigit (b.toNat / 16) :: hexDigit (b.toNat % 16) :: renderSerial bs

end Sys2Proof.Machine
end

