-- ==== Sys2Proof/Machine/Fetch.lean ====
section
/-! DEFINITION. One step of the HOST agent: a command line is fetched, decoded and run (10_state R44; 30_encoding
R104). -/

namespace Sys2Proof.Machine

/-- A command line from the bytes of its header. -/
def runCommand (header : List Byte) (s : State) : Out :=
  match decode header with
  | .ok i => exec i s
  | .error e => .refused (.illegalHeader e)

/-- One step of the host. -/
def hostStep (e : HostEvent) (s : State) : Out :=
  match e with
  | .command header => runCommand header s
  | .line l => runLine l s
  | .openLine => .next (hostOpen s)
  | .closeLine => .next (hostClose s)
  | .write no v => .next (writeNo no v s)
  | .read no => .next (readNo no s)
  | .writeTx i v => .next (writeTxbuf i v s)
  | .readTx i => readTxbuf i s
  | .readRx i => readRxbuf i s
  | .readRange start stop block => .next (startRead start stop (blockOrDefault block) s)
  | .writeRange data start block => .next (startWrite data start (blockOrDefault block) s)
  | .nextElement => nextElement s

/-- The step of whichever agent the event names. -/
def eventStep (e : Event) (s : State) : Out :=
  match e with
  | .host h => hostStep h s
  | .env v => envStep v s

/-- The state with a command line, given as an opcode-table word, as the very next event (log 4). -/
def withCommand (s : State) (nbits w : Nat) : State :=
  s.putAgenda (.host (.command (tableBytes nbits w)) :: s.agenda)

end Sys2Proof.Machine
end

