-- ==== Sys2Proof/Machine/Step.lean ====
section
/-! DEFINITION. One step of the whole system, and where its next command line is fetched from (log 1). -/

namespace Sys2Proof.Machine

/-- One step: the agenda's next event, or, where nothing is planned, the agent that can move (00_scope R8). -/
def step (s : State) : Host.Outcome State Fault Refusal :=
  match s.agenda with
  | [] => autoStep s
  | e :: rest => eventStep e (s.putAgenda rest)

/-- The state whose next step fetches and runs the command of an opcode-table word (log 1, log 4). -/
def State.withFetchWord (s : State) (nbits w : Nat) : State := withCommand s nbits w

end Sys2Proof.Machine
end

