-- ==== Sys2Proof/WellFormed.lean ====
section
/-! DEFINITION. Which commands may stand on the link (30_encoding R93): the page count is 1 to `MAX_PAGES`.
Every other operand is legal at every value of its field. -/

namespace Sys2Proof

/-- The page count of a transfer is legal (10_state R23). -/
def legalPages (n : Byte) : Bool := n != 0 && decide (n.toNat ≤ Config.maxPages)

/-- The command is one the engine accepts when the link is open and sound (41_framer R151). -/
def Instr.wellFormed : Instr → Bool
  | .vv => true
  | .ns => true
  | .zw n _ _ => legalPages n
  | .zr n _ _ => legalPages n
  | .br _ => true
  | .brr => true
  | .bs _ => true
  | .be _ => true
  | .bes => true
  | .ber => true

end Sys2Proof
end

