-- ==== Sys2Proof/Safety.lean ====
section
/-! DEFINITION. The terms the statements use: the invariants of the state machine (41_framer R164), the machine at
rest, plans in which no other agent interferes, the transition table (41_framer R163), and reachable states. -/

namespace Sys2Proof.Machine

/-- The first `n` bytes of TXBUF; none where one has no value (10_state R38). -/
def Engine.payload (e : Engine) (n : Nat) : Option (List Byte) := e.txbuf.readAt (span 0 n)

/-- The `RLEN`-byte response the engine has stored so far: its first `n` bytes (41_framer R159). -/
def Engine.received (e : Engine) (n : Nat) : Option (List Byte) :=
  if e.cur = 1 then some (e.res.toList.take n) else e.rxbuf.readAt (span 0 n)

/-- What each phase says of CUR and IDX (41_framer R164 (c), (d)). -/
def Engine.phaseOk (e : Engine) : Bool :=
  match e.ph with
  | .idle => true
  | .txHdr => decide (e.idx.toNat < e.hdr.length)
  | .txPay => decide (e.cur = 2) && decide (e.idx.toNat < e.plen)
  | .txCsum => e.checksummed && decide (e.idx = 0)
  | .rxAck => decide (e.cur = 2 ∨ e.cur = 4 ∨ e.cur = 6 ∨ e.cur = 7) && decide (e.idx = 0)
  | .rxByte => decide (e.cur = 5 ∨ e.cur = 8 ∨ e.cur = 9) && decide (e.idx = 0)
  | .rxRaw => decide (e.cur = 0) && decide (e.idx.toNat < 3)
  | .rxPay => decide (e.cur = 1 ∨ e.cur = 3) && decide (e.idx.toNat < e.rlen)
  | .rxCsum => decide (e.cur = 1 ∨ e.cur = 3) && decide (e.idx.toNat = e.rlen)

/-- TXSUM is the sum of what has been sent of the request frame (10_state R30, 41_framer R154). -/
def Engine.txsumOk (e : Engine) : Prop :=
  match e.ph with
  | .txHdr => e.txsum = sum8 (e.hdr.take e.idx.toNat)
  | .txPay => ∃ p, e.payload e.idx.toNat = some p ∧ e.txsum = sum8 (e.hdr ++ p)
  | .txCsum => ∃ p, e.payload e.plen = some p ∧ e.txsum = sum8 (e.hdr ++ p)
  | _ => True

/-- RXSUM is the sum of the payload bytes received (10_state R30, R37), which are stored in order. -/
def Engine.rxsumOk (e : Engine) : Prop :=
  match e.ph with
  | .rxPay | .rxCsum => ∃ p, e.received e.idx.toNat = some p ∧ e.rxsum = sum8 p
  | .txHdr | .txPay | .txCsum => e.rxsum = 0
  | _ => True

/-- The invariants of the block in every reachable state, and no others (41_framer R164; 10_state R28 to R32). -/
structure Engine.Ok (e : Engine) : Prop where
  /-- R164 (a): BUSY if and only if the phase is not IDLE. -/
  busy : e.status.busy = true ↔ e.ph ≠ .idle
  /-- 10_state R32: BUSY implies not DONE. -/
  notDone : e.ph ≠ .idle → e.status.done = false
  /-- An operation in flight has no error yet. -/
  noErr : e.ph ≠ .idle → e.status.err = .none
  /-- An operation runs only over an open link. -/
  linkOpen : e.ph ≠ .idle → e.isOpen = true
  /-- R164 (e): while FAULT is set nothing is in flight. -/
  noFault : e.ph ≠ .idle → e.status.fault = false
  /-- A link-fatal kind stands in ERR only while FAULT is set. -/
  fatal : e.status.err.linkFatal = true → e.status.fault = true
  /-- An error is reported with DONE. -/
  errDone : e.status.err ≠ .none → e.status.done = true
  /-- CUR holds one of the ten selectors. -/
  cur : e.cur.toNat < 10
  /-- A transfer in flight has a legal page count (10_state R23). -/
  pages : e.ph ≠ .idle → (e.cur = 2 ∨ e.cur = 3) → legalPages e.npages = true
  phase : e.phaseOk = true
  /-- 10_state R28: IDX never exceeds BUF_BYTES. -/
  idx : e.idx.toNat ≤ Config.bufBytes
  /-- The group in flight has not yet expired (40_transport R128). -/
  timer : e.ph ≠ .idle → e.dlt.toNat < max e.deadline.toNat 1
  txsum : e.txsumOk
  rxsum : e.rxsumOk
  txbuf : e.txbuf.wf Config.bufBytes = true
  rxbuf : e.rxbuf.wf Config.bufBytes = true

/-- The invariant of the whole machine: the block's, and the canonical form of device memory. -/
structure Inv (s : State) : Prop where
  eng : s.eng.Ok
  mem : s.dev.mem.wf Config.memBytes = true

/-- Every memory of the machine is in its canonical form. -/
def State.memoriesOk (s : State) : Bool :=
  s.eng.txbuf.wf Config.bufBytes && s.eng.rxbuf.wf Config.bufBytes && s.dev.mem.wf Config.memBytes

/-- The block is open, idle and without FAULT: a legal command is accepted (41_framer R151). -/
def Ready (s : State) : Prop :=
  s.eng.isOpen = true ∧ s.eng.ph = .idle ∧ s.eng.status.busy = false ∧ s.eng.status.fault = false

/-- No other agent's step is planned before the host's next one. -/
def Quiet (s : State) : Prop := ∀ e rest, s.agenda ≠ .env e :: rest

/-- Nothing comes from the peer of its own accord: no step is planned, no byte is on its way, and the peer is not the
reference responder. -/
def Silent (s : State) : Prop := Quiet s ∧ s.d2h = [] ∧ s.peer = .unconstrained

/-- The bytes of TXBUF that a command would send as its payload. -/
def HasPayload (i : Instr) (payload : List Byte) (s : State) : Prop :=
  s.eng.payload i.payloadLen = some payload

/-- The flags after a command that completed without an error, OVR and FAULT as they were before it. -/
def Status.after (s : Status) (csm : Bool) : Status :=
  { s with busy := false, done := true, err := .none, csm := csm }

/-- The flags after a command that was accepted and then ended with a link-fatal error. -/
def Status.failed (s : Status) (csm : Bool) (k : ErrKind) : Status :=
  { s with busy := false, done := true, fault := true, err := k, csm := csm }

/-- The engine with the operand registers a command line writes (30_encoding R104). -/
def Engine.withOperands (e : Engine) : Instr → Engine
  | .zw n bh ah => { e with npages := n, bankhi := bh, addrhi := ah }
  | .zr n bh ah => { e with npages := n, bankhi := bh, addrhi := ah }
  | .br b => { e with bank := b }
  | .bs b => { e with bank := b }
  | .be b => { e with bank := b }
  | .vv => e
  | .ns => e
  | .brr => e
  | .bes => e
  | .ber => e

/-- The engine when the request frame of `i` with `payload` has been sent and its response has not begun: operands
and CUR written, the flags cleared, TXSUM the sum of what was summed, IDX and DLT 0 (41_framer R151 to R155). -/
def Engine.sent (e : Engine) (i : Instr) (payload : List Byte) : Engine :=
  { e.withOperands i with
    cur := selector i, status := e.status.accepted, txsum := sum8 (encode i ++ payload), rxsum := 0, idx := 0, dlt := 0 }

/-- Result registers 0, 1, … take the given bytes in order. -/
def setResults (res : Vector Byte 9) : Nat → List Byte → Vector Byte 9
  | _, [] => res
  | k, b :: bs => setResults (res.setIfInBounds k b) (k + 1) bs

/-- The header bytes of the command a selector names, from the formats' lengths (30_encoding R93, R99). -/
def headerLen (cur : BitVec 4) : Nat :=
  if cur = 0 ∨ cur = 1 then 2 else if cur = 2 ∨ cur = 3 then 5 else 3

/-- The "next PH" column of the transition table (41_framer R163) for the byte rows, by phase, command and how many
bytes of the phase have gone before. -/
def Engine.tableNext (e : Engine) : Phase :=
  match e.ph with
  | .idle => .idle
  | .txHdr =>
    if e.idx.toNat + 1 < headerLen e.cur then .txHdr
    else if e.cur = 2 then .txPay
    else if e.cur = 0 then .rxRaw
    else .txCsum
  | .txPay => if e.idx.toNat + 1 < 256 * e.npages.toNat then .txPay else .txCsum
  | .txCsum =>
    if e.cur = 1 ∨ e.cur = 3 then .rxPay
    else if e.cur = 2 ∨ e.cur = 4 ∨ e.cur = 6 ∨ e.cur = 7 then .rxAck
    else .rxByte
  | .rxAck => .idle
  | .rxByte => .idle
  | .rxRaw => if e.idx.toNat < 2 then .rxRaw else .idle
  | .rxPay => if e.idx.toNat + 1 < (if e.cur = 1 then 9 else 256 * e.npages.toNat) then .rxPay else .rxCsum
  | .rxCsum => .idle

/-- The error the transition table (41_framer R163) names for a byte `b` that arrives, or none. -/
def Engine.tableError (e : Engine) (b : Byte) : ErrKind :=
  match e.ph with
  | .rxAck => if b = Config.ackByte then .none else .nak
  | .rxCsum => if b ≠ e.rxsum ∧ e.csumEnforce = true then .csum else .none
  | _ => .none

/-- The events after which `h2d` may be shorter than before, or that end an operation from outside: those of a peer
that takes bytes, of the responder, of the device's power and of the reset input. -/
def EnvEvent.intrudes : EnvEvent → Bool
  | .peerTake => true
  | .device => true
  | .powerCycle => true
  | .reset => true
  | .engine => false
  | .peerSend _ => false
  | .tick => false
  | .txFail => false
  | .rxTimeout => false

/-- How many bytes a command reads back (41_framer R165). -/
def responseLen (i : Instr) : Nat :=
  match i.response with
  | .raw3 => 3
  | .payc m => m + 1
  | .ack => 1
  | .byte => 1

/-- The responder after it has answered the given frames in turn; none where it stops at one (46_device R254). -/
def Device.afterFrames (d : Device) : List (Instr × List Byte) → Option Device
  | [] => some d
  | (i, payload) :: l =>
    match d.respond i payload with
    | some (d', _) => d'.afterFrames l
    | none => none

/-- The bytes an unconstrained peer appends to `d2h` in a plan. -/
def peerBytes : List Event → List Byte
  | [] => []
  | .env (.peerSend b) :: l => b :: peerBytes l
  | _ :: l => peerBytes l

/-- How many result registers, from RES0 on, a command may write (10_state R35). -/
def resultCount (i : Instr) : Nat :=
  match i with
  | .vv => 3
  | .ns => 9
  | .zr _ _ _ => 0
  | .zw _ _ _ => 1
  | .br _ => 1
  | .brr => 1
  | .bs _ => 1
  | .be _ => 1
  | .bes => 1
  | .ber => 1

/-- How many bytes of RXBUF, from index 0 on, a command may write (10_state R39). -/
def rxbufCount (i : Instr) : Nat :=
  match i with
  | .zr n _ _ => 256 * n.toNat
  | _ => 0

/-- `n` steps from `s` lead to `t` without a fault or a refusal. -/
def runsTo : Nat → State → State → Prop
  | 0, s, t => s = t
  | n + 1, s, t => ∃ s', step s = .next s' ∧ runsTo n s' t

/-- The states some plan leads to from reset: the plan and the peer are chosen from outside (log 1, log 17). -/
def Reachable (t : State) : Prop :=
  ∃ (plan : List Event) (peer : Peer) (n : Nat), runsTo n { State.reset with agenda := plan, peer := peer } t

end Sys2Proof.Machine
end

