-- ==== Sys2Proof/Certificates/Slice0/Obligations.lean ====
section
/-! DEFINITION. The statements for the provers. Each docstring names the rule of spec/ a statement rests on; what a
statement takes from a choice of the model names the log entry. -/

open Sys2Proof Sys2Proof.Machine

/-! ### Encodings -/

/-- 30_encoding R95, R100: the header decoder reads every encoded header back, whatever follows it. -/
def Obligations.HeaderDecodeInvertsEncode : Prop :=
  ∀ (i : Instr) (rest : List Byte), decodeHeader (encode i ++ rest) = .ok (i, rest)

/-- 30_encoding R100, R103: whatever the header decoder accepts is the header of the command it answers, so every
header has one meaning and no bank byte above 7 is read. -/
def Obligations.DecodedHeaderIsEncoding : Prop :=
  ∀ (bs : List Byte) (i : Instr) (rest : List Byte), decodeHeader bs = .ok (i, rest) → bs = encode i ++ rest

/-- 30_encoding R90, R95, R100, 46_device R254: the frame the engine builds for a command with a page count other
than 0 is read back whole, with its payload, from the head of any queue. -/
def Obligations.FrameDecodeInvertsBuild : Prop :=
  ∀ (i : Instr) (payload rest : List Byte), i.pages ≠ some 0 → payload.length = i.payloadLen →
    decodeFrame (frameOf i payload ++ rest) = .ok (i, payload, rest)

/-- 30_encoding R100, R103, 46_device R254: whatever the frame decoder accepts is a frame the engine can build. -/
def Obligations.DecodedFrameIsBuilt : Prop :=
  ∀ (bs payload rest : List Byte) (i : Instr), decodeFrame bs = .ok (i, payload, rest) →
    bs = frameOf i payload ++ rest ∧ payload.length = i.payloadLen ∧ i.pages ≠ some 0

/-- 46_device R254, R265: the responder has no step on a proper prefix of a frame. -/
def Obligations.FramePrefixIsNotAFrame : Prop :=
  ∀ (i : Instr) (payload : List Byte) (k : Nat), payload.length = i.payloadLen → k < (frameOf i payload).length →
    i.pages ≠ some 0 → ∃ e, decodeFrame ((frameOf i payload).take k) = .error e

/-- 30_encoding R99: some words written out from the command map, decoded. -/
def Obligations.SampleHeadersDecode : Prop :=
  decode [0x56, 0x56] = .ok .vv ∧ decode [0x4E, 0x53] = .ok .ns ∧
  decode [0x5A, 0x57, 0x10, 0x07, 0xE0] = .ok (.zw 0x10 7 0xE0) ∧
  decode [0x5A, 0x52, 0x54, 0x00, 0xAC] = .ok (.zr 0x54 0 0xAC) ∧
  decode [0x42, 0x52, 0x05] = .ok (.br 5) ∧ decode [0x42, 0x52, 0x52] = .ok .brr ∧
  decode [0x42, 0x53, 0x03] = .ok (.bs 3) ∧ decode [0x42, 0x45, 0x07] = .ok (.be 7) ∧
  decode [0x42, 0x45, 0x53] = .ok .bes ∧ decode [0x42, 0x45, 0x52] = .ok .ber ∧
  decode [0x42, 0x52, 0x08] = .error .bankTooLarge

/-- 00_scope R14: the checksum is the sum of the byte values modulo 256, and 0 of no bytes. -/
def Obligations.ChecksumIsSumModulo256 : Prop :=
  sum8 [] = 0 ∧ ∀ s : List Byte, (sum8 s).toNat = (s.map BitVec.toNat).sum % 256

/-- 41_framer R146: the laws of the checksum. -/
def Obligations.ChecksumLaws : Prop :=
  (∀ s t : List Byte, sum8 (s ++ t) = sum8 s + sum8 t) ∧ (∀ s t : List Byte, s.Perm t → sum8 s = sum8 t) ∧
  (∀ (s : List Byte) (b : Byte), sum8 (s ++ List.replicate 256 b) = sum8 s) ∧
  (∀ s : List Byte, s.foldl (fun acc b => acc + b) 0 = sum8 s)

/-- 30_encoding R96, R103, R104, 44_bank R206: a set-bank command sends the value the host wrote to BANK modulo 8,
whatever it wrote, and a transfer sends its BANKHI the same way; a line whose operands exceed their fields runs as the
command of the masked operands. -/
def Obligations.WrittenBanksWrapInTheFrame : Prop :=
  (∀ (s : State) (v : HostWord), s.eng.status.busy = false →
    (∀ sel c, (sel = 4 ∧ c = 0x52 ∨ sel = 6 ∧ c = 0x53 ∨ sel = 7 ∧ c = 0x45) →
      ({ (writeReg .bank v s).eng with cur := sel } : Engine).hdr = [0x42, c, BitVec.ofNat 8 (v.toNat % 8)]) ∧
    (∀ sel c, (sel = 2 ∧ c = 0x57 ∨ sel = 3 ∧ c = 0x52) →
      ({ (writeReg .bankhi v s).eng with cur := sel } : Engine).hdr
        = [0x5A, c, s.eng.npages, BitVec.ofNat 8 (v.toNat % 8), s.eng.addrhi])) ∧
  ∀ (s : State) (n bh ah b : HostWord),
    hostStep (.line (.zw n bh ah)) s
      = exec (.zw (BitVec.ofNat 8 (n.toNat % 256)) (BitVec.ofNat 3 (bh.toNat % 8)) (BitVec.ofNat 8 (ah.toNat % 256))) s ∧
    hostStep (.line (.zr n bh ah)) s
      = exec (.zr (BitVec.ofNat 8 (n.toNat % 256)) (BitVec.ofNat 3 (bh.toNat % 8)) (BitVec.ofNat 8 (ah.toNat % 256))) s ∧
    hostStep (.line (.br b)) s = exec (.br (BitVec.ofNat 3 (b.toNat % 8))) s ∧
    hostStep (.line (.bs b)) s = exec (.bs (BitVec.ofNat 3 (b.toNat % 8))) s ∧
    hostStep (.line (.be b)) s = exec (.be (BitVec.ofNat 3 (b.toNat % 8))) s

/-! ### The step and the host port -/

/-- 30_encoding R104: the step takes the command line that is next on the agenda (the model's form of who moves next,
log 1) and runs its command. A line is R104's own, a mnemonic with operands of any value, which runs as the command of
the masked operands (what `Line.instr` masks stands in WrittenBanksWrapInTheFrame); or it is the bytes of a header,
which the step decodes: that form is the model's own, a DESIGN CHOICE, log 5. -/
def Obligations.StepRunsTheDecodedCommand : Prop :=
  ∀ (s : State) (rest : List Event),
    (∀ (header : List Byte) (i : Instr), s.agenda = .host (.command header) :: rest → decode header = .ok i →
      step s = exec i { s with agenda := rest }) ∧
    (∀ l : Line, s.agenda = .host (.line l) :: rest → step s = exec l.instr { s with agenda := rest })

/-- 41_framer R151: a host write of `v` to CMD, whole: dropped with OVR while BUSY; refused with PRECOND and nothing
else changed by the four causes of 60_exceptions R286; accepted otherwise. -/
def Obligations.CommandWriteAcceptance : Prop :=
  ∀ (s : State) (v : HostWord),
    (s.eng.status.busy = true →
      writeReg .cmd v s = { s with eng := { s.eng with status := { s.eng.status with ovr := true } } }) ∧
    (s.eng.status.busy = false →
      (s.eng.isOpen = false ∨ s.eng.status.fault = true ∨ 10 ≤ v.toNat % 16 ∨
        ((v.toNat % 16 = 2 ∨ v.toNat % 16 = 3) ∧
          (s.eng.npages = 0 ∨ Config.maxPages < s.eng.npages.toNat))) →
      writeReg .cmd v s =
        { s with eng := { s.eng with status := { s.eng.status with done := true, err := .precond } } }) ∧
    (s.eng.status.busy = false → s.eng.isOpen = true → s.eng.status.fault = false → v.toNat % 16 < 10 →
      ((v.toNat % 16 = 2 ∨ v.toNat % 16 = 3) → s.eng.npages ≠ 0 ∧ s.eng.npages.toNat ≤ Config.maxPages) →
      writeReg .cmd v s =
        { s with
          eng := { s.eng with
            cur := BitVec.ofNat 4 (v.toNat % 16), txsum := 0, rxsum := 0, idx := 0, dlt := 0, ph := .txHdr
            status := { s.eng.status with done := false, err := .none, busy := true, csm := false } } })

/-- 10_state R27: while BUSY, a write to a locked register, to a byte of TXBUF, or to CTRL other than a close changes
nothing but OVR. What a close leaves of OVR is log 14's. -/
def Obligations.LockedWritesAreDropped : Prop :=
  ∀ (s : State) (v : HostWord) (k : Nat), s.eng.status.busy = true →
    (∀ r ∈ [HostReg.cmd, .npages, .bankhi, .addrhi, .bank, .deadline],
      writeReg r v s = { s with eng := { s.eng with status := { s.eng.status with ovr := true } } }) ∧
    (k < Config.bufBytes →
      writeTxbuf k v s = { s with eng := { s.eng with status := { s.eng.status with ovr := true } } }) ∧
    (v.getLsbD 0 = true →
      writeReg .ctrl v s = { s with eng := { s.eng with status := { s.eng.status with ovr := true } } })

/-- 10_state R21 to R26, R32, R33, R37: while no operation is in flight, a register that is written reads back as the
low bits of its width of what was written, zero-extended, and nothing but the register and the returned value has
changed. In every state, each number from 0 to 19 writes and reads the register of its row: a write to a read-only one
has no effect (while BUSY too, which is how log 15 reads R27), and a read returns the state it names, zero-extended
(RES and RXBUF while idle; a buffer byte that has a value). What a write to CMD, to CTRL and while BUSY does stands in
CommandWriteAcceptance, OpenClearsTheFlags, CloseDropsTheOperation and LockedWritesAreDropped. The place of a returned
value is log 22. -/
def Obligations.RegistersReadBackMasked : Prop :=
  (∀ (s : State) (v : HostWord), s.eng.status.busy = false →
    readReg .npages (writeReg .npages v s)
      = { s with eng := { s.eng with npages := v.setWidth 8 }, readData := v &&& 0xFF } ∧
    readReg .bankhi (writeReg .bankhi v s)
      = { s with eng := { s.eng with bankhi := v.setWidth 3 }, readData := v &&& 7 } ∧
    readReg .addrhi (writeReg .addrhi v s)
      = { s with eng := { s.eng with addrhi := v.setWidth 8 }, readData := v &&& 0xFF } ∧
    readReg .bank (writeReg .bank v s)
      = { s with eng := { s.eng with bank := v.setWidth 3 }, readData := v &&& 7 } ∧
    readReg .deadline (writeReg .deadline v s)
      = { s with eng := { s.eng with deadline := v.setWidth 16 }, readData := v &&& 0xFFFF }) ∧
  (∀ (s : State) (v : HostWord),
    hostStep (.write 0 v) s = .next (writeReg .cmd v s) ∧ hostStep (.write 1 v) s = .next (writeReg .npages v s) ∧
    hostStep (.write 2 v) s = .next (writeReg .bankhi v s) ∧ hostStep (.write 3 v) s = .next (writeReg .addrhi v s) ∧
    hostStep (.write 4 v) s = .next (writeReg .bank v s) ∧ hostStep (.write 5 v) s = .next (writeReg .ctrl v s) ∧
    hostStep (.write 7 v) s = .next (writeReg .deadline v s) ∧
    ∀ no, no = 6 ∨ 8 ≤ no ∧ no ≤ 19 → hostStep (.write no v) s = .next s) ∧
  ∀ s : State,
    hostStep (.read 0) s = .next { s with readData := s.eng.cur.setWidth 32 } ∧
    hostStep (.read 1) s = .next { s with readData := s.eng.npages.setWidth 32 } ∧
    hostStep (.read 2) s = .next { s with readData := s.eng.bankhi.setWidth 32 } ∧
    hostStep (.read 3) s = .next { s with readData := s.eng.addrhi.setWidth 32 } ∧
    hostStep (.read 4) s = .next { s with readData := s.eng.bank.setWidth 32 } ∧
    hostStep (.read 5) s =
      .next { s with readData := (if s.eng.csumEnforce then 2 else 0) + (if s.eng.isOpen then 1 else 0) } ∧
    hostStep (.read 6) s = .next { s with readData := s.eng.status.word.setWidth 32 } ∧
    hostStep (.read 7) s = .next { s with readData := s.eng.deadline.setWidth 32 } ∧
    (s.eng.status.busy = false → ∀ (k : Nat) (hk : k < 9),
      hostStep (.read (8 + k)) s = .next { s with readData := s.eng.res[k].setWidth 32 }) ∧
    hostStep (.read 17) s = .next { s with readData := s.eng.rxsum.setWidth 32 } ∧
    hostStep (.read 18) s = .next { s with readData := s.eng.rxcs.setWidth 32 } ∧
    hostStep (.read 19) s = .next { s with readData := s.eng.idx.setWidth 32 } ∧
    ∀ (k : Nat) (b : Byte), k < Config.bufBytes →
      (s.eng.txbuf.read k = some b → hostStep (.readTx k) s = .next { s with readData := b.setWidth 32 }) ∧
      (s.eng.status.busy = false → s.eng.rxbuf.read k = some b →
        hostStep (.readRx k) s = .next { s with readData := b.setWidth 32 })

/-- 10_state R21, R38: a 32-bit write to an index of TXBUF keeps its low 8 bits; the byte reads as it was last written,
zero-extended, and other bytes as before, and nothing else changes; past its end a write has no effect (93 U9). -/
def Obligations.TxbufReadsAsWritten : Prop :=
  ∀ (s : State) (k : Nat) (v : HostWord), s.eng.status.busy = false →
    (k < Config.bufBytes → ∃ m : Memory,
      hostStep (.writeTx k v) s = .next { s with eng := { s.eng with txbuf := m } } ∧
      (∀ j, m.read j = if j = k then some (BitVec.ofNat 8 (v.toNat % 256)) else s.eng.txbuf.read j) ∧
      hostStep (.readTx k) { s with eng := { s.eng with txbuf := m } }
        = .next { s with eng := { s.eng with txbuf := m }, readData := v &&& 0xFF }) ∧
    (Config.bufBytes ≤ k → hostStep (.writeTx k v) s = .next s)

/-- 10_state R21, R35, R39 (93 U3, U9): a nonexistent register keeps nothing and reads as a free value; RES and RXBUF
read as a free byte while BUSY, and so does a buffer index of BUF_BYTES or more at any time. That "any value" is a
constant without a body, applied to a counter of the model's own that then counts on, is log 11; the statement holds
whatever that value is. -/
def Obligations.ReadsWithoutAValueAreFree : Prop :=
  ∀ (s : State) (no k : Nat) (v : HostWord),
    (20 ≤ no → writeNo no v s = s ∧ readNo no s = { s with readData := Config.anyRead s.free, free := s.free + 1 }) ∧
    (s.eng.status.busy = true →
      readReg (.res k) s = { s with readData := Config.anyRead s.free &&& 0xFF, free := s.free + 1 } ∧
      readRxbuf k s = .next { s with readData := Config.anyRead s.free &&& 0xFF, free := s.free + 1 }) ∧
    (s.eng.status.busy = true → k < 9 →
      readNo (8 + k) s = { s with readData := Config.anyRead s.free &&& 0xFF, free := s.free + 1 }) ∧
    (Config.bufBytes ≤ k →
      readTxbuf k s = .next { s with readData := Config.anyRead s.free &&& 0xFF, free := s.free + 1 } ∧
      readRxbuf k s = .next { s with readData := Config.anyRead s.free &&& 0xFF, free := s.free + 1 })

/-- 10_state R32, 60_exceptions R281: what the host reads in STATUS, bit by bit. -/
def Obligations.StatusReadsAsItsFlags : Prop :=
  ∀ s : State,
    (readReg .status s).readData.toNat
      = s.eng.status.busy.toNat + 2 * s.eng.status.done.toNat + 4 * s.eng.status.fault.toNat
        + 8 * s.eng.status.csm.toNat + 16 * s.eng.status.ovr.toNat
        + 32 * (match s.eng.status.err with
          | .none => 0 | .ioWrite => 1 | .ioRead => 2 | .nak => 3 | .csum => 4 | .precond => 5)

/-- 40_transport R123, 10_state R21, R31: OPEN, as the host's line (R123) and as any write to CTRL with bit 0 set, where
CSUM_ENFORCE takes the written bit 1 (R31): the link opens, `d2h` is emptied, the flags, PH and IDX are cleared, and
everything else keeps its value. -/
def Obligations.OpenClearsTheFlags : Prop :=
  ∀ s : State, s.eng.isOpen = false → s.eng.ph = .idle → s.eng.status.busy = false →
    hostOpen s =
      { s with
        d2h := []
        eng := { s.eng with
          isOpen := true, ph := .idle, idx := 0
          status := { s.eng.status with done := false, fault := false, csm := false, ovr := false, err := .none } } } ∧
    ∀ v : HostWord, v.getLsbD 0 = true →
      writeReg .ctrl v s =
        { hostOpen s with eng := { (hostOpen s).eng with csumEnforce := v.getLsbD 1 } }

/-- 40_transport R124, 10_state R21, R31, 70_reset R334, R341: CLOSE in every phase: the link closes, an operation in
flight is dropped with DONE and ERR as they were, nothing that was sent is recalled, and a firmware call in progress is
aborted and no longer there to resume. A raw write to CTRL with bit 0 = 0 does the same; while BUSY its bit 1 is dropped
(that OVR then stays is how log 14 reads R27), while idle CSUM_ENFORCE takes it. While idle a write that leaves bit 0 as
it is changes CSUM_ENFORCE only. That the end of the aborted call stands in a field is log 20's. -/
def Obligations.CloseDropsTheOperation : Prop :=
  ∀ (s : State) (v : HostWord), s.eng.Ok →
    (s.eng.isOpen = true →
      hostClose s =
        { s with
          eng := { s.eng with isOpen := false, ph := .idle, status := { s.eng.status with busy := false } }
          fw := .none, fwEnd := if s.fw = .none then s.fwEnd else .aborted }) ∧
    (s.eng.isOpen = true → v.getLsbD 0 = false → s.eng.status.busy = true → writeReg .ctrl v s = hostClose s) ∧
    (s.eng.isOpen = true → v.getLsbD 0 = false → s.eng.status.busy = false →
      writeReg .ctrl v s = { hostClose s with eng := { (hostClose s).eng with csumEnforce := v.getLsbD 1 } }) ∧
    (v.getLsbD 0 = s.eng.isOpen → s.eng.status.busy = false →
      writeReg .ctrl v s = { s with eng := { s.eng with csumEnforce := v.getLsbD 1 } })

/-- 70_reset R320, R321: the reset input in every phase. Registers the spec leaves unspecified are not named. That a
firmware call in progress ends with it, the link being closed, is how log 20 reads R334. -/
def Obligations.ResetInputClearsTheBlock : Prop :=
  ∀ s t : State, envStep .reset s = .next t →
    t.eng.cur = 0 ∧ t.eng.npages = 0 ∧ t.eng.bankhi = 0 ∧ t.eng.addrhi = 0 ∧ t.eng.bank = 0 ∧
    t.eng.isOpen = false ∧ t.eng.csumEnforce = false ∧ t.eng.status.word = 0 ∧ t.eng.deadline = 5 ∧
    t.eng.dlt = 0 ∧ t.eng.ph = .idle ∧ t.eng.idx = 0 ∧ t.eng.txsum = 0 ∧ t.eng.rxsum = 0 ∧
    (∀ k, t.eng.txbuf.read k = none ∧ t.eng.rxbuf.read k = none) ∧
    t.h2d = s.h2d ∧ t.d2h = s.d2h ∧ t.dev = s.dev ∧ t.fw = .none ∧ t.fwOut = s.fwOut

/-- 10_state R43: the block right after reset, as the host reads it (95 G-12), and its hidden state. -/
def Obligations.ResetStateHasTheTablesValues : Prop :=
  (readReg .status State.reset).readData = 0 ∧ (readReg .deadline State.reset).readData = 5 ∧
  (readReg .ctrl State.reset).readData = 0 ∧ (readReg .cmd State.reset).readData = 0 ∧
  (readReg .npages State.reset).readData = 0 ∧ (readReg .bankhi State.reset).readData = 0 ∧
  (readReg .addrhi State.reset).readData = 0 ∧ (readReg .bank State.reset).readData = 0 ∧
  (readReg .rxsum State.reset).readData = 0 ∧ (readReg .idx State.reset).readData = 0 ∧
  State.reset.eng.ph = .idle ∧ State.reset.eng.dlt = 0 ∧ State.reset.eng.txsum = 0

/-! ### What each command does when it completes

In each of these the link is open and sound, no other agent's step is planned before the line ends, and the peer's
answer is on its way. The next state is given whole, so each is also the command's frame. -/

/-- 42_identity R170: `VV` sends `56 56` and stores any 3 bytes in RES0 to RES2. -/
def Obligations.VvStoresThreeRawBytes : Prop :=
  ∀ (s : State) (t v d : Byte) (rest : List Byte), Ready s → Quiet s → s.d2h = t :: v :: d :: rest →
    exec .vv s =
      .next { s with
        eng := { s.eng.sent .vv [] with res := setResults s.eng.res 0 [t, v, d], status := s.eng.status.after false }
        h2d := s.h2d ++ [0x56, 0x56], d2h := rest }

/-- 42_identity R171, 41_framer R143: `NS` sends `4E 53 A1`, stores 9 bytes in RES0 to RES8 and their sum in RXSUM,
and completes if the checksum byte is right or the policy does not enforce it. -/
def Obligations.NsStoresTheSerialPayload : Prop :=
  ∀ (s : State) (p rest : List Byte) (c : Byte), Ready s → Quiet s → p.length = 9 → s.d2h = p ++ c :: rest →
    (c = sum8 p ∨ s.eng.csumEnforce = false) →
    exec .ns s =
      .next { s with
        eng := { s.eng.sent .ns [] with
          res := setResults s.eng.res 0 p, rxsum := sum8 p, rxcs := c
          status := s.eng.status.after (decide (c ≠ sum8 p)) }
        h2d := s.h2d ++ [0x4E, 0x53, 0xA1], d2h := rest }

/-- 43_memory R180: `ZW` sends its header, the first `256*n` bytes of TXBUF and their sum, and completes on the
acknowledgement; every register but the operands and the sequencing state keeps its value. -/
def Obligations.ZwSendsThePages : Prop :=
  ∀ (s : State) (n : Byte) (bh : Bank) (ah : Byte) (payload rest : List Byte), Ready s → Quiet s →
    legalPages n = true → HasPayload (.zw n bh ah) payload s → s.d2h = Config.ackByte :: rest →
    exec (.zw n bh ah) s =
      .next { s with
        eng := { s.eng.sent (.zw n bh ah) payload with status := s.eng.status.after false }
        h2d := s.h2d ++ [0x5A, 0x57, n, byteOfBank bh, ah] ++ payload
          ++ [0xB1 + n + byteOfBank bh + ah + sum8 payload]
        d2h := rest }

/-- 43_memory R181, 41_framer R143: `ZR` sends its 6-byte frame, stores `256*n` bytes in RXBUF from index 0 and
their sum in RXSUM, and completes if the checksum byte is right or the policy does not enforce it. -/
def Obligations.ZrStoresThePages : Prop :=
  ∀ (s : State) (n : Byte) (bh : Bank) (ah : Byte) (p rest : List Byte) (c : Byte), Ready s → Quiet s →
    legalPages n = true → p.length = 256 * n.toNat → s.d2h = p ++ c :: rest →
    (c = sum8 p ∨ s.eng.csumEnforce = false) →
    exec (.zr n bh ah) s =
      .next { s with
        eng := { s.eng.sent (.zr n bh ah) [] with
          rxbuf := s.eng.rxbuf.writeAt ((span 0 (256 * n.toNat)).zip p), rxsum := sum8 p, rxcs := c
          status := s.eng.status.after (decide (c ≠ sum8 p)) }
        h2d := s.h2d ++ [0x5A, 0x52, n, byteOfBank bh, ah, 0xAC + n + byteOfBank bh + ah], d2h := rest }

/-- 44_bank R200, R202, R203: a set-bank command sends its 4-byte frame and completes on the acknowledgement; RES
keeps its values. -/
def Obligations.SetBankCommandsComplete : Prop :=
  ∀ (s : State) (b : Bank) (rest : List Byte), Ready s → Quiet s → s.d2h = Config.ackByte :: rest →
    (exec (.br b) s =
      .next { s with
        eng := { s.eng.sent (.br b) [] with status := s.eng.status.after false }
        h2d := s.h2d ++ [0x42, 0x52, byteOfBank b, 0x94 + byteOfBank b], d2h := rest }) ∧
    (exec (.bs b) s =
      .next { s with
        eng := { s.eng.sent (.bs b) [] with status := s.eng.status.after false }
        h2d := s.h2d ++ [0x42, 0x53, byteOfBank b, 0x95 + byteOfBank b], d2h := rest }) ∧
    (exec (.be b) s =
      .next { s with
        eng := { s.eng.sent (.be b) [] with status := s.eng.status.after false }
        h2d := s.h2d ++ [0x42, 0x45, byteOfBank b, 0x87 + byteOfBank b], d2h := rest })

/-- 10_state R36, 44_bank R201, R204, R205: a get-bank command sends its fixed frame and stores the one reply byte in
RES0 exactly as received; BANK and the other result registers keep their values. -/
def Obligations.GetBankCommandsStoreTheReply : Prop :=
  ∀ (s : State) (r : Byte) (rest : List Byte), Ready s → Quiet s → s.d2h = r :: rest →
    (exec .brr s =
      .next { s with
        eng := { s.eng.sent .brr [] with res := setResults s.eng.res 0 [r], status := s.eng.status.after false }
        h2d := s.h2d ++ [0x42, 0x52, 0x52, 0xE6], d2h := rest }) ∧
    (exec .bes s =
      .next { s with
        eng := { s.eng.sent .bes [] with res := setResults s.eng.res 0 [r], status := s.eng.status.after false }
        h2d := s.h2d ++ [0x42, 0x45, 0x53, 0xDA], d2h := rest }) ∧
    (exec .ber s =
      .next { s with
        eng := { s.eng.sent .ber [] with res := setResults s.eng.res 0 [r], status := s.eng.status.after false }
        h2d := s.h2d ++ [0x42, 0x45, 0x52, 0xD9], d2h := rest })

/-! ### Where a command ends with an error -/

/-- 60_exceptions R286, R290: over a closed link, under FAULT, or with an illegal page count, every command line
writes its operands, reports PRECOND, and changes nothing else: no byte is sent, CUR and FAULT stay. -/
def Obligations.RefusedCommandsSendNothing : Prop :=
  ∀ (s : State) (i : Instr), s.eng.status.busy = false → s.eng.ph = .idle →
    (s.eng.isOpen = false ∨ s.eng.status.fault = true ∨ i.wellFormed = false) →
    exec i s =
      .next { s with
        eng := { s.eng.withOperands i with status := { s.eng.status with done := true, err := .precond } } }

/-- 10_state R27, 30_encoding R104: a command line issued while an operation is in flight has none of its own effect:
every write is dropped with OVR, and the line waits for that operation to end. That it waits, and until PH = IDLE
where R104 polls until DONE, is the model's choice, log 3. -/
def Obligations.BusyLineOnlyWaits : Prop :=
  ∀ (s : State) (i : Instr), s.eng.status.busy = true →
    exec i s = awaitIdle { s with eng := { s.eng with status := { s.eng.status with ovr := true } } }

/-- 41_framer R144, 60_exceptions R284, R290: any reply but `ACK_BYTE` to `ZW`, `BR`, `BS` or `BE` ends it with NAK
and FAULT after its whole frame has been sent, and stands in RES0. -/
def Obligations.WrongAcknowledgementIsNak : Prop :=
  ∀ (s : State) (i : Instr) (payload rest : List Byte) (k : Byte), Ready s → Quiet s → i.response = .ack →
    i.wellFormed = true → HasPayload i payload s → s.d2h = k :: rest → k ≠ Config.ackByte →
    exec i s =
      .next { s with
        eng := { s.eng.sent i payload with
          res := setResults s.eng.res 0 [k], status := s.eng.status.failed false .nak }
        h2d := s.h2d ++ frameOf i payload, d2h := rest }

/-- 41_framer R143, 60_exceptions R285: under CSUM_ENFORCE a wrong response checksum ends `NS` or `ZR` with CSUM,
CSM and FAULT; the payload is stored, and IDX holds its length. -/
def Obligations.EnforcedMismatchIsCsumError : Prop :=
  ∀ (s : State) (p rest : List Byte) (c : Byte), Ready s → Quiet s → s.eng.csumEnforce = true → c ≠ sum8 p →
    s.d2h = p ++ c :: rest →
    (p.length = 9 →
      exec .ns s =
        .next { s with
          eng := { s.eng.sent .ns [] with
            res := setResults s.eng.res 0 p, rxsum := sum8 p, rxcs := c, idx := 9
            status := s.eng.status.failed true .csum }
          h2d := s.h2d ++ [0x4E, 0x53, 0xA1], d2h := rest }) ∧
    (∀ n bh ah, legalPages n = true → p.length = 256 * n.toNat →
      exec (.zr n bh ah) s =
        .next { s with
          eng := { s.eng.sent (.zr n bh ah) [] with
            rxbuf := s.eng.rxbuf.writeAt ((span 0 (256 * n.toNat)).zip p), rxsum := sum8 p, rxcs := c
            idx := BitVec.ofNat 16 (256 * n.toNat), status := s.eng.status.failed true .csum }
          h2d := s.h2d ++ [0x5A, 0x52, n, byteOfBank bh, ah, 0xAC + n + byteOfBank bh + ah], d2h := rest })

/-- 40_transport R128, R130, 60_exceptions R283: against a silent peer every command sends its whole frame and then
expires with IO_READ when DLT has reached DEADLINE (one time unit if DEADLINE is 0). -/
def Obligations.SilentPeerEndsInIoRead : Prop :=
  ∀ (s : State) (i : Instr) (payload : List Byte), Ready s → Silent s → i.wellFormed = true →
    HasPayload i payload s →
    exec i s =
      .next { s with
        eng := { s.eng.sent i payload with
          dlt := if s.eng.deadline = 0 then 1 else s.eng.deadline, status := s.eng.status.failed false .ioRead }
        h2d := s.h2d ++ frameOf i payload }

/-- 60_exceptions R283, R289, 10_state R35, R39 (95 M-9, I-3, I-8): a `ZR`, `VV` or `NS` whose peer falls silent before
the last byte of the response, its checksum byte among them, ends in IO_READ with the bytes received in RXBUF or RES,
their sum in RXSUM (`VV` has none) and their count in IDX. That time passes when no other agent can move is log 2. -/
def Obligations.TruncatedReadKeepsWhatArrived : Prop :=
  ∀ s : State, Ready s → Quiet s → s.peer = .unconstrained →
    (∀ (n : Byte) (bh : Bank) (ah : Byte), legalPages n = true → s.d2h.length ≤ 256 * n.toNat →
      exec (.zr n bh ah) s =
        .next { s with
          eng := { s.eng.sent (.zr n bh ah) [] with
            rxbuf := s.eng.rxbuf.writeAt ((span 0 s.d2h.length).zip s.d2h), rxsum := sum8 s.d2h
            idx := BitVec.ofNat 16 s.d2h.length, dlt := if s.eng.deadline = 0 then 1 else s.eng.deadline
            status := s.eng.status.failed false .ioRead }
          h2d := s.h2d ++ [0x5A, 0x52, n, byteOfBank bh, ah, 0xAC + n + byteOfBank bh + ah], d2h := [] }) ∧
    (s.d2h.length < 3 →
      exec .vv s =
        .next { s with
          eng := { s.eng.sent .vv [] with
            res := setResults s.eng.res 0 s.d2h, idx := BitVec.ofNat 16 s.d2h.length
            dlt := if s.eng.deadline = 0 then 1 else s.eng.deadline
            status := s.eng.status.failed false .ioRead }
          h2d := s.h2d ++ [0x56, 0x56], d2h := [] }) ∧
    (s.d2h.length ≤ 9 →
      exec .ns s =
        .next { s with
          eng := { s.eng.sent .ns [] with
            res := setResults s.eng.res 0 s.d2h, rxsum := sum8 s.d2h, idx := BitVec.ofNat 16 s.d2h.length
            dlt := if s.eng.deadline = 0 then 1 else s.eng.deadline
            status := s.eng.status.failed false .ioRead }
          h2d := s.h2d ++ [0x4E, 0x53, 0xA1], d2h := [] })

/-- 60_exceptions R282, R290, 40_transport R129 (95 M-4): a transmit group that fails before byte `k` of the frame has
sent exactly the `k` bytes before it, and ends with IO_WRITE and FAULT; IDX is the index of byte `k` within its phase
(header, payload or checksum); nothing has been received. -/
def Obligations.TransmitFailureCutsTheFrame : Prop :=
  ∀ (s : State) (i : Instr) (payload : List Byte) (k : Nat) (rest : List Event), Ready s → i.wellFormed = true →
    HasPayload i payload s → k < (frameOf i payload).length →
    s.agenda = List.replicate k (.env .engine) ++ .env .txFail :: rest →
    ∃ t, exec i s = .next t ∧ t.agenda = rest ∧ t.h2d = s.h2d ++ (frameOf i payload).take k ∧ t.d2h = s.d2h ∧
      t.dev = s.dev ∧ t.eng.ph = .idle ∧ t.eng.status = s.eng.status.failed false .ioWrite ∧
      t.eng.cur = selector i ∧ t.eng.res = s.eng.res ∧ t.eng.rxbuf = s.eng.rxbuf ∧ t.eng.txbuf = s.eng.txbuf ∧
      t.eng.idx.toNat =
        if k < (encode i).length then k
        else if k < (encode i).length + payload.length then k - (encode i).length
        else 0

/-- 60_exceptions R292, 70_reset R341: whatever ended or interrupted the last command, CLOSE then OPEN makes the engine
accept commands again, tells the device nothing, and leaves no firmware call to resume. That asking for an element
without a call changes nothing is log 20's. -/
def Obligations.CloseThenOpenRecovers : Prop :=
  ∀ s : State, s.eng.Ok → s.eng.isOpen = true →
    Ready (hostOpen (hostClose s)) ∧ (hostOpen (hostClose s)).eng.status.word = 0 ∧
    (hostOpen (hostClose s)).h2d = s.h2d ∧ (hostOpen (hostClose s)).d2h = [] ∧ (hostOpen (hostClose s)).dev = s.dev ∧
    nextElement (hostOpen (hostClose s)) = .next (hostOpen (hostClose s))

/-- 10_state R38, 93 U4 (log 9): a `ZW` that reaches a TXBUF byte nothing has written stops the model. -/
def Obligations.UnwrittenPayloadStopsZw : Prop :=
  ∀ (s : State) (n : Byte) (bh : Bank) (ah : Byte) (k : Nat), Ready s → Quiet s → legalPages n = true →
    k < 256 * n.toNat → s.eng.txbuf.read k = none → exec (.zw n bh ah) s = .fault .txbufUnwritten

/-! ### The state machine -/

/-- 41_framer R156, R157, R158: the three receive steps without a checksum, and that each is enabled when `d2h` is
not empty and only then. -/
def Obligations.UncheckedReceiveSteps : Prop :=
  ∀ (s : State) (b : Byte) (rest : List Byte),
    (s.eng.ph ∈ [Phase.rxAck, .rxByte, .rxRaw] → byteEnabled s = !s.d2h.isEmpty) ∧
    (s.d2h = b :: rest → s.eng.ph = .rxAck → b = Config.ackByte →
      byteStep s = .next { s with d2h := rest, eng := s.eng.complete }) ∧
    (s.d2h = b :: rest → s.eng.ph = .rxAck → b ≠ Config.ackByte →
      byteStep s = .next { s with
        d2h := rest, eng := ({ s.eng with res := s.eng.res.setIfInBounds 0 b } : Engine).raiseErr .nak }) ∧
    (s.d2h = b :: rest → s.eng.ph = .rxByte →
      byteStep s = .next { s with
        d2h := rest, eng := ({ s.eng with res := s.eng.res.setIfInBounds 0 b } : Engine).complete }) ∧
    (s.d2h = b :: rest → s.eng.ph = .rxRaw → s.eng.idx.toNat + 1 < 3 →
      byteStep s = .next { s with
        d2h := rest
        eng := { s.eng with res := s.eng.res.setIfInBounds s.eng.idx.toNat b, idx := s.eng.idx + 1 } }) ∧
    (s.d2h = b :: rest → s.eng.ph = .rxRaw → ¬ s.eng.idx.toNat + 1 < 3 →
      byteStep s = .next { s with
        d2h := rest
        eng := ({ s.eng with res := s.eng.res.setIfInBounds s.eng.idx.toNat b } : Engine).complete })

/-- 41_framer R163: in a machine that meets its invariant, every byte step the engine has moves PH as the row of the
transition table for its phase, its command and its place in the phase says, and leaves the flags that row names. -/
def Obligations.ByteStepsFollowTheTransitionTable : Prop :=
  ∀ s t : State, Inv s → byteEnabled s = true → byteStep s = .next t →
    t.eng.ph = s.eng.tableNext ∧ t.eng.status.err = s.eng.tableError (s.d2h.headD 0) ∧
    t.eng.status.fault = decide (s.eng.tableError (s.d2h.headD 0) ≠ .none) ∧
    t.eng.status.done = decide (s.eng.tableNext = .idle) ∧ t.eng.status.busy = decide (s.eng.tableNext ≠ .idle) ∧
    t.eng.status.csm = (s.eng.status.csm || decide (s.eng.ph = .rxCsum ∧ s.d2h.headD 0 ≠ s.eng.rxsum))

/-- 40_transport R128: a time unit while nothing can be received: DLT counts, and on reaching DEADLINE the group
expires. -/
def Obligations.TimerExpiresTheReceiveGroup : Prop :=
  ∀ s : State, s.eng.ph.group = .receive → s.d2h = [] → s.eng.dlt.toNat < 65535 →
    (s.eng.dlt.toNat + 1 < s.eng.deadline.toNat →
      tick s = .next { s with eng := { s.eng with dlt := s.eng.dlt + 1 } }) ∧
    (s.eng.deadline.toNat ≤ s.eng.dlt.toNat + 1 →
      tick s = .next { s with
        eng := { s.eng with
          dlt := s.eng.dlt + 1, ph := .idle
          status := { s.eng.status with err := .ioRead, fault := true, done := true, busy := false } } })

/-- 40_transport R128, 60_exceptions R282: a time unit in a transmit phase: DLT counts, and on reaching DEADLINE the
byte step that is always possible there is taken first (R288 (3), log 13); the group expires with IO_WRITE if it goes
on after that byte, and the expiry no longer applies if it has ended. -/
def Obligations.TimerExpiresTheTransmitGroup : Prop :=
  ∀ s u : State, s.eng.ph.group = .transmit → s.eng.dlt.toNat < 65535 →
    (s.eng.dlt.toNat + 1 < s.eng.deadline.toNat →
      tick s = .next { s with eng := { s.eng with dlt := s.eng.dlt + 1 } }) ∧
    (s.eng.deadline.toNat ≤ s.eng.dlt.toNat + 1 → byteStep s = .next u → u.eng.ph.group = .transmit →
      tick s = .next { u with
        eng := { u.eng with
          dlt := s.eng.dlt + 1, ph := .idle
          status := { s.eng.status with err := .ioWrite, fault := true, done := true, busy := false } } }) ∧
    (s.eng.deadline.toNat ≤ s.eng.dlt.toNat + 1 → byteStep s = .next u → u.eng.ph.group ≠ .transmit →
      tick s = .next u)

/-- 40_transport R128, 60_exceptions R288 (3), (4): a time unit in a receive phase while a byte waits. At the instant of
the deadline the byte is taken first: if it ends the operation the expiry no longer applies, else DLT counts and the
group expires with IO_READ, the byte stored. Before the deadline only DLT counts. That the one event carries both the
byte and the expiry is log 13. -/
def Obligations.ByteStepBeatsTheDeadline : Prop :=
  ∀ s t : State, s.eng.ph.group = .receive → byteStep s = .next t → byteEnabled s = true →
    (t.eng.ph = .idle → s.eng.due = true → tick s = .next t) ∧
    (s.eng.dlt.toNat < 65535 → s.eng.deadline.toNat ≤ s.eng.dlt.toNat + 1 → t.eng.ph ≠ .idle →
      tick s = .next { t with
        eng := { t.eng with
          dlt := s.eng.dlt + 1, ph := .idle
          status := { s.eng.status with err := .ioRead, fault := true, done := true, busy := false } } }) ∧
    (s.eng.dlt.toNat < 65535 → s.eng.dlt.toNat + 1 < s.eng.deadline.toNat →
      tick s = .next { s with eng := { s.eng with dlt := s.eng.dlt + 1 } })

/-- 40_transport R129: the free events end a group of their own direction with its error and touch no other. -/
def Obligations.FreeEventsExpireTheirGroup : Prop :=
  ∀ s : State,
    (s.eng.ph.group = .transmit → txFail s = { s with eng := s.eng.raiseErr .ioWrite }) ∧
    (s.eng.ph.group ≠ .transmit → txFail s = s) ∧
    (s.eng.ph.group = .receive → rxTimeout s = { s with eng := s.eng.raiseErr .ioRead }) ∧
    (s.eng.ph.group ≠ .receive → rxTimeout s = s)

/-! ### Whole-machine statements -/

/-- 41_framer R164, 10_state R28 to R32 (log 9 for the memories' form): the reset state meets the invariant. -/
def Obligations.ResetMeetsTheInvariant : Prop := Inv State.reset

/-- 41_framer R154, R164, 10_state R28 to R32: every step of every agent keeps the invariant. -/
def Obligations.StepKeepsTheInvariant : Prop := ∀ s t : State, Inv s → step s = .next t → Inv t

/-- 41_framer R164: so it holds of every state that any plan, against either peer, leads to from reset. -/
def Obligations.ReachableStatesMeetTheInvariant : Prop := ∀ t : State, Reachable t → Inv t

/-- 40_transport R128, R130, 70_reset R325 (log 2, log 3): whatever the unconstrained peer, time and the free events
do, every command line ends with the engine idle, if the bytes it sends have values. -/
def Obligations.EveryCommandEndsIdle : Prop :=
  ∀ (i : Instr) (s : State) (payload : List Byte), Inv s → s.eng.status.busy = false → s.peer = .unconstrained →
    HasPayload i payload s → ∃ t, exec i s = .next t ∧ t.eng.ph = .idle

/-- 41_framer R165, 30_encoding R90: whatever the peer sends and whenever time passes, a command sends a prefix of
its frame and nothing else, and the whole frame if it completes; and a completed command has taken exactly the bytes
its response format needs from the head of what was or became available. -/
def Obligations.CommandsExchangeExactlyTheirFrames : Prop :=
  ∀ (i : Instr) (s t : State) (payload : List Byte), Inv s → s.eng.status.busy = false → s.peer = .unconstrained →
    (∀ e, .env e ∈ s.agenda → e.intrudes = false) → HasPayload i payload s → exec i s = .next t →
    (∃ k, t.h2d = s.h2d ++ (frameOf i payload).take k) ∧
    (t.eng.status.err = .none →
      t.h2d = s.h2d ++ frameOf i payload ∧
      ∃ used taken, s.agenda = used ++ t.agenda ∧ taken.length = responseLen i ∧
        s.d2h ++ peerBytes used = taken ++ t.d2h)

/-- 10_state R27, R31, R35, R38, R39 (41_framer R164 (b)): whatever happens while a line polls, short of a reset, it
leaves TXBUF, DEADLINE, CTRL and the operand registers it does not write as they were; BANKHI and the rest hold its
operands; only the result registers, RXBUF bytes and RXCS its row of R35 names may change. The clauses on the model's
own fields rest on its choices: a command between two elements leaves a firmware call as it stands (log 20), no step
changes the attached peer (log 17), and the reads of a polling line do not change `readData` (log 22). -/
def Obligations.CommandsLeaveOtherRegistersAlone : Prop :=
  ∀ (i : Instr) (s t : State), s.eng.status.busy = false → s.eng.ph = .idle →
    (∀ e, .env e ∈ s.agenda → e ≠ .reset) → exec i s = .next t →
    t.eng.txbuf = s.eng.txbuf ∧ t.eng.deadline = s.eng.deadline ∧ t.eng.isOpen = s.eng.isOpen ∧
    t.eng.csumEnforce = s.eng.csumEnforce ∧ t.eng.status.ovr = s.eng.status.ovr ∧
    t.eng.npages = (s.eng.withOperands i).npages ∧ t.eng.bankhi = (s.eng.withOperands i).bankhi ∧
    t.eng.addrhi = (s.eng.withOperands i).addrhi ∧ t.eng.bank = (s.eng.withOperands i).bank ∧
    (∀ k, resultCount i ≤ k → t.eng.res[k]? = s.eng.res[k]?) ∧
    (∀ k, rxbufCount i ≤ k → t.eng.rxbuf.read k = s.eng.rxbuf.read k) ∧
    ((∀ m, i.response ≠ .payc m) → t.eng.rxcs = s.eng.rxcs) ∧
    t.fw = s.fw ∧ t.fwOut = s.fwOut ∧ t.fwEnd = s.fwEnd ∧ t.peer = s.peer ∧ t.readData = s.readData

/-! ### The reference responder -/

/-- 46_device R258: the six reading commands change no device state, so any of them repeated returns the same bytes as
long as no writing command comes between: after any frames of reading commands, and in every responder with the same
banks and memory. (The count of frames is the model's own, log 19.) -/
def Obligations.ReadingCommandsChangeNoDeviceState : Prop :=
  ∀ (d d' : Device) (i : Instr) (payload r : List Byte), i.response ≠ .ack → d.respond i payload = some (d', r) →
    d'.iobank = d.iobank ∧ d'.emubank = d.emubank ∧ d'.emubankP = d.emubankP ∧ d'.mem = d.mem ∧
    (∀ (l : List (Instr × List Byte)) (e : Device), (∀ f ∈ l, f.1.response ≠ .ack) → d'.afterFrames l = some e →
      ∃ e', e.respond i payload = some (e', r)) ∧
    ∀ e : Device, e.iobank = d.iobank → e.emubank = d.emubank → e.emubankP = d.emubankP → e.mem = d.mem →
      ∃ e', e.respond i payload = some (e', r)

/-- 44_bank R207, 46_device R257, R259, R263, R266: what each writing command does in the device, whole: rejected, it
changes no device state and is answered with a byte that is not the acknowledgement; else it changes its own register
or the pages it names, and is acknowledged. -/
def Obligations.WritingCommandsChangeTheirOwnState : Prop :=
  ∀ (d : Device) (i : Instr) (payload : List Byte), i.response = .ack →
    if Config.reject (d.frames + 1) then
      ∃ k, k ≠ Config.ackByte ∧ d.respond i payload = some ({ d with frames := d.frames + 1 }, [k])
    else
      d.respond i payload = some (
        match i with
        | .br b => { d with iobank := b, frames := d.frames + 1 }
        | .be b => { d with emubank := b, frames := d.frames + 1 }
        | .bs b =>
          { d with
            emubankP := b, emubank := if Config.bsUpdatesActive then b else d.emubank, frames := d.frames + 1 }
        | .zw n bh ah =>
          { d with
            frames := d.frames + 1
            mem := d.mem.writeAt ((deviceSpan
              (pageAddress (if Config.ioBankMode = .added then bh + d.iobank else bh) ah) (256 * n.toNat)).zip payload) }
        | _ => d,
        [Config.ackByte])

/-- 46_device R264: the device's power cycle. -/
def Obligations.PowerCycleReloadsThePersistentBank : Prop :=
  ∀ s t : State, envStep .powerCycle s = .next t →
    t.dev.emubankP = s.dev.emubankP ∧ t.dev.emubank = s.dev.emubankP ∧ (∀ a, t.dev.mem.read a = none) ∧
    t.h2d = [] ∧ t.d2h = s.d2h ∧ t.eng = s.eng

/-- 46_device R250 (b), R254: a command against the reference responder runs as it would against a peer that has
already sent the responder's answer; the responder has consumed the frame and is in its new state. That the
responder's unplanned step comes before any time unit is the model's choice, log 2 (46_device R268 gives only eventual
service). -/
def Obligations.ReferenceRunIsAnUnconstrainedRun : Prop :=
  ∀ (s : State) (i : Instr) (payload r : List Byte) (d : Device), Ready s → Quiet s → s.peer = .reference →
    s.h2d = [] → s.d2h = [] → i.wellFormed = true → HasPayload i payload s →
    s.dev.respond i payload = some (d, r) →
    ∃ t, exec i { s with peer := .unconstrained, d2h := r } = .next t ∧ t.eng.ph = .idle ∧
      exec i s = .next { t with peer := .reference, dev := d, h2d := [] }

/-- 46_device R257, R263, R266, 20_memory R77 (source property S6): against the reference responder a set-bank command
completes, with NAK if `REJECT` names its frame; otherwise the bank is the one its get command returns. That the
responder's unplanned step comes before any time unit is the model's choice, log 2 (46_device R268 gives only eventual
service). -/
def Obligations.BanksReadBackAsSet : Prop :=
  ∀ (s : State) (b : Bank), Ready s → Quiet s → s.peer = .reference → s.h2d = [] → s.d2h = [] →
    ∀ set get, (set, get) ∈ [(Instr.br b, Instr.brr), (.bs b, .bes), (.be b, .ber)] →
      ∃ t, exec set s = .next t ∧
        if Config.reject (s.dev.frames + 1) then
          t.eng.status = s.eng.status.failed false .nak ∧ t.dev = { s.dev with frames := s.dev.frames + 1 }
        else
          t.eng.status = s.eng.status.after false ∧
            ∃ u, exec get t = .next u ∧ u.eng.status = s.eng.status.after false ∧ u.eng.res[0] = byteOfBank b

/-- 45_windower R240, 46_device R259, R260, R266 (source property S7): against the reference responder, a page write
ends with NAK and changes no page if `REJECT` names its frame; otherwise the pages are read back byte for byte, with a
right checksum. That the responder's unplanned step comes before any time unit is the model's choice, log 2 (46_device
R268 gives only eventual service). -/
def Obligations.PagesReadBackAsWritten : Prop :=
  ∀ (s : State) (n : Byte) (bh : Bank) (ah : Byte) (payload : List Byte), Ready s → Quiet s →
    s.peer = .reference → s.h2d = [] → s.d2h = [] → legalPages n = true → HasPayload (.zw n bh ah) payload s →
    ∃ t, exec (.zw n bh ah) s = .next t ∧
      if Config.reject (s.dev.frames + 1) then
        t.eng.status = s.eng.status.failed false .nak ∧ t.dev.mem = s.dev.mem
      else
        t.eng.status = s.eng.status.after false ∧
          ∃ u, exec (.zr n bh ah) t = .next u ∧ u.eng.status = s.eng.status.after false ∧
            ∀ k, k < 256 * n.toNat → u.eng.rxbuf.read k = s.eng.txbuf.read k

/-! ### The firmware above the block -/

/-- 45_windower R229: `lead_pages` is 0 for every block of a `read_range`, so no block address advances. -/
def Obligations.LeadPagesAreAlwaysZero : Prop :=
  ∀ start stop block j : Nat, 256 ∣ block → 256 ≤ block → start ≤ stop → j < blockCount start stop block →
    leadPages start (pageFloor start + j * block) = 0 ∧
    (readBlockAt start stop block (pageFloor start + j * block)).addr = pageFloor start + j * block

/-- 45_windower R228 (b) to (e): the transfers of a `read_range` are whole pages of at most a block, both trims are
below a page, and the trimmed pieces are exactly the addresses from `start` to `stop`, in order. -/
def Obligations.ReadPlanCoversTheRange : Prop :=
  ∀ start stop block : Nat, 256 ∣ block → 256 ≤ block → start ≤ stop →
    (∀ b ∈ readPlan start stop block,
      256 ∣ b.size ∧ 256 ≤ b.size ∧ b.size ≤ block ∧ 256 ∣ b.addr ∧ b.leadTrim < 256 ∧ b.tailTrim < 256 ∧
        b.leadTrim + b.tailTrim < b.size) ∧
    (readPlan start stop block).flatMap (fun b => span (b.addr + b.leadTrim) (b.size - b.tailTrim - b.leadTrim))
      = span start (stop + 1 - start)

/-- 45_windower R237, R238 (b) to (d): the slices of a `write_range` are whole pages of at most a block, in ascending
order, and together exactly the data; and the element of slice `j` puts that slice into TXBUF, sends its `ZW`, and on
the acknowledgement yields its length and goes on with the next slice, or is finished. -/
def Obligations.WritePlanCoversTheData : Prop :=
  (∀ len start block : Nat, 256 ∣ block → 256 ≤ block → 256 ∣ len →
    (∀ c ∈ writePlan len start block, 256 ∣ c.2 ∧ 256 ≤ c.2 ∧ c.2 ≤ block) ∧
    (writePlan len start block).flatMap (fun c => span c.1 c.2) = span start len) ∧
  ∀ (s : State) (data slice rest : List Byte) (start block j addr m : Nat), Ready s → Quiet s →
    s.d2h = Config.ackByte :: rest → 256 ∣ block → 256 ≤ block → block ≤ 256 * Config.maxPages →
    256 ∣ data.length → 256 ∣ start → start + data.length ≤ 524288 →
    s.fw = .writing data start block (j * block) → (writePlan data.length start block)[j]? = some (addr, m) →
    slice = (data.drop (j * block)).take m →
    nextElement s =
      .next { s with
        eng := { ({ s.eng with txbuf := s.eng.txbuf.writeAt ((span 0 m).zip slice) } : Engine).sent
            (.zw (BitVec.ofNat 8 (m / 256)) (BitVec.ofNat 3 (addr / 65536)) (BitVec.ofNat 8 (addr / 256))) slice with
          status := s.eng.status.after false }
        h2d := s.h2d ++ frameOf
          (.zw (BitVec.ofNat 8 (m / 256)) (BitVec.ofNat 3 (addr / 65536)) (BitVec.ofNat 8 (addr / 256))) slice
        d2h := rest
        fw := if (j + 1) * block < data.length then .writing data start block ((j + 1) * block) else .none
        fwOut := s.fwOut ++ [.count m]
        fwEnd := if (j + 1) * block < data.length then .running else .finished }

/-- 20_memory R61, 45_windower R222: the two address fields of a page give the page's address back. -/
def Obligations.PageAddressInvertsItsFields : Prop :=
  ∀ a : Nat, 256 ∣ a → a < Config.memBytes → pageAddress (bankHighOf a) (addrHighOf a) = a

/-- 45_windower R221, R224, R225 (a), R227, R236 (source property S2): a `read_range` with a negative or reversed range,
an end of 2^19 or more, or an illegal block size, and a `write_range` of no whole pages, to a negative or misaligned
address, past 2^19, or with an illegal block size, is rejected, and nothing of the engine, the link or the device
changes; every other call is started. A call without a block size has 4096. That any new call, a rejected one among
them, replaces one in progress is a DESIGN CHOICE, log 20, unsafe for a claim about two calls at once. -/
def Obligations.IllegalFirmwareCallsDoNothing : Prop :=
  ∀ (s : State) (start stop size : Int) (block : Option Int) (data : List Byte),
    size = (match block with
      | some b => b
      | none => 4096) →
    (start < 0 ∨ stop < start ∨ 524288 ≤ stop ∨ size % 256 ≠ 0 ∨ size < 256 ∨ 256 * (Config.maxPages : Int) < size →
      hostStep (.readRange start stop block) s = .next { s with fw := .none, fwOut := [], fwEnd := .rejected }) ∧
    (¬ (start < 0 ∨ stop < start ∨ 524288 ≤ stop ∨ size % 256 ≠ 0 ∨ size < 256 ∨
        256 * (Config.maxPages : Int) < size) →
      hostStep (.readRange start stop block) s = .next { s with
        fw := .reading start.toNat stop.toNat size.toNat (start.toNat - start.toNat % 256), fwOut := []
        fwEnd := .running }) ∧
    (data.length % 256 ≠ 0 ∨ start < 0 ∨ start % 256 ≠ 0 ∨ 524288 < start + (data.length : Int) ∨ size % 256 ≠ 0 ∨
        size < 256 ∨ 256 * (Config.maxPages : Int) < size →
      hostStep (.writeRange data start block) s = .next { s with fw := .none, fwOut := [], fwEnd := .rejected }) ∧
    (¬ (data.length % 256 ≠ 0 ∨ start < 0 ∨ start % 256 ≠ 0 ∨ 524288 < start + (data.length : Int) ∨ size % 256 ≠ 0 ∨
        size < 256 ∨ 256 * (Config.maxPages : Int) < size) →
      hostStep (.writeRange data start block) s = .next { s with
        fw := if data = [] then .none else .writing data start.toNat size.toNat 0, fwOut := []
        fwEnd := if data = [] then .finished else .running })

/-- 45_windower R226, R228 (e), 46_device R260: against the reference responder, with I/O bank 0 or with
`IOBANK_MODE` ignored, the element a `read_range` yields for the block at `a` is the device bytes from `max a start`
on, as many as the block and the range have in common, and the call goes on with the block at `a + block`, or is
finished where that is not below `aligned_end_exclusive`. That it is always yielded rests on log 2:
the responder's unplanned step comes before any time unit, where 46_device R268 gives only eventual service. -/
def Obligations.ReadElementYieldsDeviceBytes : Prop :=
  ∀ (s : State) (start stop block j : Nat) (p : List Byte), Ready s → Quiet s → s.peer = .reference →
    s.h2d = [] → s.d2h = [] → (Config.ioBankMode = .ignored ∨ s.dev.iobank = 0) → legalRead start stop block = true →
    j < blockCount start stop block → s.fw = .reading start stop block (pageFloor start + j * block) →
    s.dev.mem.readAt (deviceSpan (pageFloor start + j * block)
      (readBlockAt start stop block (pageFloor start + j * block)).size) = some p →
    ∃ t, nextElement s = .next t ∧
      t.fwOut = s.fwOut ++ [.chunk ((p.drop (readBlockAt start stop block (pageFloor start + j * block)).leadTrim).take
        (min (pageFloor start + (j + 1) * block) (stop + 1) - max (pageFloor start + j * block) start))] ∧
      (pageFloor start + (j + 1) * block < stop - stop % 256 + 256 →
        t.fw = .reading start stop block (pageFloor start + (j + 1) * block) ∧ t.fwEnd = .running) ∧
      (stop - stop % 256 + 256 ≤ pageFloor start + (j + 1) * block → t.fw = .none ∧ t.fwEnd = .finished)

/-- 45_windower R225 (b), R239 (source property S8): a `read_range` or `write_range` whose command ends with an ERR
other than NONE (a missing acknowledgement, a timeout, a refusal) yields no element for it and ends with that error, and
no later element of it sends anything. That asking for an element without a call changes nothing, and that a call whose
element was asked for while another operation was in flight, so that its command was dropped, ends without an element,
are DESIGN CHOICES, log 20. -/
def Obligations.FailedWriteEndsTheCall : Prop :=
  ∀ s t : State, s.fw ≠ .none → nextElement s = .next t →
    (t.eng.status.err ≠ .none →
      t.fw = .none ∧ t.fwOut = s.fwOut ∧ t.fwEnd = .failed t.eng.status.err ∧ nextElement t = .next t) ∧
    (s.eng.status.busy = true → t.fw = .none ∧ t.fwOut = s.fwOut ∧ nextElement t = .next t)
end

