-- ==== Sys2Proof/Laws/Bytes.lean ====
section
/-! SUPPORT. The checksum, the bank byte, the frame and the open parameters' ranges. -/

namespace Sys2Proof

@[simp] theorem sum8_nil : sum8 [] = 0 := rfl

@[simp] theorem sum8_cons (b : Byte) (s : List Byte) : sum8 (b :: s) = b + sum8 s := rfl

/-- The accumulator form of the checksum (41_framer R146). -/
theorem sum8_concat (s : List Byte) (b : Byte) : sum8 (s ++ [b]) = sum8 s + b := by
  induction s with
  | nil => simp [BitVec.add_comm]
  | cons a s ih => simp [ih, BitVec.add_assoc]

theorem byteOfBank_toNat (b : Bank) : (byteOfBank b).toNat = b.toNat := by
  simp only [byteOfBank, BitVec.toNat_setWidth]
  omega

theorem byteOfBank_lt (b : Bank) : (byteOfBank b).toNat < 8 := by
  rw [byteOfBank_toNat]
  omega

/-- The mask of 30_encoding R96 loses nothing of a 3-bit bank. -/
@[simp] theorem bankOfByte_byteOfBank (b : Bank) : bankOfByte (byteOfBank b) = some b := by
  rw [bankOfByte, if_pos (byteOfBank_lt b)]
  simp only [byteOfBank, Option.some.injEq]
  rw [BitVec.setWidth_setWidth_of_le _ (by omega), BitVec.setWidth_eq]

/-- A bank byte that is read stands for exactly one bank. -/
theorem byteOfBank_of_bankOfByte {c : Byte} {b : Bank} (h : bankOfByte c = some b) : byteOfBank b = c := by
  rw [bankOfByte] at h
  split at h
  · rename_i hc
    obtain rfl := Option.some.inj h
    apply BitVec.eq_of_toNat_eq
    simp only [byteOfBank, BitVec.toNat_setWidth]
    omega
  · cases h

theorem maxPages_ge : 16 ≤ Config.maxPages := Nat.le_add_right _ _

theorem maxPages_le : Config.maxPages ≤ 255 := by
  have := Config.maxPagesAbove16.isLt
  simp only [Config.maxPages]
  omega

theorem bufBytes_le : Config.bufBytes ≤ 65280 := by
  exact Nat.mul_le_mul_right 256 maxPages_le

theorem bufBytes_ge : 4096 ≤ Config.bufBytes := by
  exact Nat.mul_le_mul_right 256 maxPages_ge

/-- 46_device R266: the two reply bytes differ. -/
theorem nakByte_ne_ackByte : Config.nakByte ≠ Config.ackByte := by
  have h := Config.nakOffset.isLt
  intro heq
  have := congrArg BitVec.toNat heq
  simp only [Config.nakByte, BitVec.toNat_add, BitVec.toNat_ofNat] at this
  have h2 := Config.ackByte.isLt
  simp at this
  omega

theorem legalPages_iff (n : Byte) : legalPages n = true ↔ 1 ≤ n.toNat ∧ n.toNat ≤ Config.maxPages := by
  have : n ≠ 0 ↔ 1 ≤ n.toNat := by
    constructor
    · intro h
      rcases Nat.eq_zero_or_pos n.toNat with h0 | h0
      · exact absurd (BitVec.eq_of_toNat_eq (by simpa using h0)) h
      · exact h0
    · rintro h rfl
      simp at h
  rw [legalPages, Bool.and_eq_true, decide_eq_true_eq, bne_iff_ne, this]

/-- `frameOf` without the helper: header, payload, and their sum where the frame is checksummed (30_encoding R95). -/
theorem frameOf_eq (i : Instr) (payload : List Byte) :
    frameOf i payload
      = if i.checksummed then encode i ++ payload ++ [sum8 (encode i ++ payload)] else encode i ++ payload := by
  simp [frameOf, buildFrame, List.take_append_drop]

end Sys2Proof
end

