-- ==== Sys2Proof/Laws/Memory.lean ====
section
/-! SUPPORT. Memory: a byte reads as it was last written, other bytes are untouched, and every operation keeps the
canonical form. -/

namespace Sys2Proof.Machine

@[simp] theorem read_nil (k : Nat) : Memory.read [] k = none := rfl

@[simp] theorem read_cons (a : Nat) (b : Byte) (m : Memory) (k : Nat) :
    Memory.read ((a, b) :: m) k = if k = a then some b else Memory.read m k := rfl

/-- What one write does to every later read. -/
theorem read_write (m : Memory) (a k : Nat) (v : Byte) :
    (m.write a v).read k = if k = a then some v else m.read k := by
  induction m with
  | nil => simp [Memory.write]
  | cons c m ih =>
    obtain ⟨a', b⟩ := c
    simp only [Memory.write]
    split_ifs <;> simp_all

theorem read_write_same (m : Memory) (a : Nat) (v : Byte) : (m.write a v).read a = some v := by
  simp [read_write]

theorem read_write_other (m : Memory) {a k : Nat} (v : Byte) (h : k ≠ a) : (m.write a v).read k = m.read k := by
  simp [read_write, h]

theorem wfFrom_mono {size lo lo' : Nat} {m : Memory} (hlo : lo' ≤ lo) (h : Memory.wfFrom size lo m = true) :
    Memory.wfFrom size lo' m = true := by
  cases m with
  | nil => rfl
  | cons c m =>
    obtain ⟨a, b⟩ := c
    simp only [Memory.wfFrom, Bool.and_eq_true, decide_eq_true_eq] at h ⊢
    exact ⟨⟨hlo.trans h.1.1, h.1.2⟩, h.2⟩

theorem wfFrom_write {size : Nat} (m : Memory) (lo a : Nat) (v : Byte) (hlo : lo ≤ a) (ha : a < size)
    (h : Memory.wfFrom size lo m = true) : Memory.wfFrom size lo (m.write a v) = true := by
  induction m generalizing lo with
  | nil => simp [Memory.write, Memory.wfFrom, hlo, ha]
  | cons c m ih =>
    obtain ⟨a', b⟩ := c
    simp only [Memory.wfFrom, Bool.and_eq_true, decide_eq_true_eq] at h
    simp only [Memory.write]
    split_ifs with h1 h2
    · simp only [Memory.wfFrom, Bool.and_eq_true, decide_eq_true_eq]
      exact ⟨⟨hlo, ha⟩, ⟨h1, h.1.2⟩, h.2⟩
    · subst h2
      simp only [Memory.wfFrom, Bool.and_eq_true, decide_eq_true_eq]
      exact ⟨⟨h.1.1, ha⟩, h.2⟩
    · simp only [Memory.wfFrom, Bool.and_eq_true, decide_eq_true_eq]
      exact ⟨h.1, ih (a' + 1) (by omega) h.2⟩

/-- A write inside the memory keeps its canonical form. -/
theorem write_wf {m : Memory} {size a : Nat} (v : Byte) (h : m.wf size = true) (ha : a < size) :
    (m.write a v).wf size = true :=
  wfFrom_write m 0 a v (Nat.zero_le _) ha h

/-- Writes inside the memory keep its canonical form. -/
theorem writeAt_wf {size : Nat} (cells : List (Nat × Byte)) (m : Memory) (h : m.wf size = true)
    (ha : ∀ c ∈ cells, c.1 < size) : (m.writeAt cells).wf size = true := by
  induction cells generalizing m with
  | nil => exact h
  | cons c cells ih =>
    obtain ⟨a, b⟩ := c
    exact ih _ (write_wf b h (ha (a, b) (by simp))) fun c hc => ha c (by simp [hc])

@[simp] theorem nil_wf (size : Nat) : Memory.wf [] size = true := rfl

/-- Two memories in canonical form that read alike are equal data. -/
theorem eq_of_read {size : Nat} {m n : Memory} {lo lo' : Nat} (hm : Memory.wfFrom size lo m = true)
    (hn : Memory.wfFrom size lo' n = true) (h : ∀ k, m.read k = n.read k) : m = n := by
  have low : ∀ {lo k : Nat} {m : Memory}, Memory.wfFrom size lo m = true → k < lo → m.read k = none := by
    intro lo k m
    induction m generalizing lo with
    | nil => intros; rfl
    | cons c m ih =>
      obtain ⟨a, b⟩ := c
      intro hw hk
      simp only [Memory.wfFrom, Bool.and_eq_true, decide_eq_true_eq] at hw
      simp only [read_cons, if_neg (show k ≠ a by omega)]
      exact ih hw.2 (by omega)
  induction m generalizing n lo lo' with
  | nil =>
    cases n with
    | nil => rfl
    | cons c n =>
      obtain ⟨a, b⟩ := c
      simpa using h a
  | cons c m ih =>
    obtain ⟨a, b⟩ := c
    cases n with
    | nil => simpa using h a
    | cons c' n =>
      obtain ⟨a', b'⟩ := c'
      simp only [Memory.wfFrom, Bool.and_eq_true, decide_eq_true_eq] at hm hn
      have haa : a = a' := by
        rcases Nat.lt_trichotomy a a' with hlt | heq | hgt
        · have := h a
          rw [read_cons, if_pos rfl, read_cons, if_neg (by omega), low hn.2 (by omega)] at this
          simp at this
        · exact heq
        · have := h a'
          rw [read_cons, if_neg (by omega), read_cons, if_pos rfl, low hm.2 (by omega)] at this
          simp at this
      subst haa
      have hb : b = b' := by simpa using h a
      subst hb
      rw [ih hm.2 hn.2]
      intro k
      by_cases hk : k = a
      · subst hk
        rw [low hm.2 (by omega), low hn.2 (by omega)]
      · simpa [hk] using h k

@[simp] theorem readAt_nil (m : Memory) : m.readAt [] = some [] := rfl

theorem readAt_cons (m : Memory) (a : Nat) (as : List Nat) :
    m.readAt (a :: as) = (m.read a).bind fun b => (m.readAt as).map (b :: ·) := by
  simp only [Memory.readAt]
  cases m.read a <;> cases m.readAt as <;> rfl

theorem readAt_length {m : Memory} {as : List Nat} {bs : List Byte} (h : m.readAt as = some bs) :
    bs.length = as.length := by
  induction as generalizing bs with
  | nil => simp_all
  | cons a as ih =>
    rw [readAt_cons] at h
    cases hr : m.read a <;> cases hs : m.readAt as <;> simp_all
    subst h
    simpa using ih

theorem readAt_append (m : Memory) (as as' : List Nat) :
    m.readAt (as ++ as') = (m.readAt as).bind fun x => (m.readAt as').map (x ++ ·) := by
  induction as with
  | nil => cases h : m.readAt as' <;> simp [h]
  | cons a as ih =>
    rw [List.cons_append, readAt_cons, readAt_cons, ih]
    cases m.read a <;> cases m.readAt as <;> cases m.readAt as' <;> rfl

/-- A write outside the addresses read changes nothing that is read. -/
theorem readAt_write_other (m : Memory) (a : Nat) (v : Byte) (as : List Nat) (h : a ∉ as) :
    (m.write a v).readAt as = m.readAt as := by
  induction as with
  | nil => rfl
  | cons x as ih =>
    simp only [List.mem_cons, not_or] at h
    rw [readAt_cons, readAt_cons, read_write, if_neg (fun e => h.1 e.symm), ih h.2]

theorem span_succ (lo n : Nat) : span lo (n + 1) = span lo n ++ [lo + n] := by
  simp [span, List.range'_concat]

/-- Reading one more byte of a buffer. -/
theorem readAt_span_succ (m : Memory) (n : Nat) :
    m.readAt (span 0 (n + 1)) = (m.readAt (span 0 n)).bind fun p => (m.read n).map fun b => p ++ [b] := by
  rw [span_succ, readAt_append, readAt_cons, Nat.zero_add]
  cases m.readAt (span 0 n) <;> cases m.read n <;> simp

/-- Storing the byte after the first `n` makes the first `n + 1` readable. -/
theorem readAt_span_write (m : Memory) (n : Nat) (b : Byte) {p : List Byte} (h : m.readAt (span 0 n) = some p) :
    (m.write n b).readAt (span 0 (n + 1)) = some (p ++ [b]) := by
  rw [readAt_span_succ, readAt_write_other _ _ _ _ (by simp [span, List.mem_range']), h]
  simp [read_write_same]

/-- Stores at other addresses leave a byte as it was. -/
theorem read_writeAt_other : ∀ (cells : List (Nat × Byte)) (m : Memory) (a : Nat), a ∉ cells.map Prod.fst →
    (m.writeAt cells).read a = m.read a := by
  intro cells
  induction cells with
  | nil => intros; rfl
  | cons c cells ih =>
    intro m a h
    obtain ⟨x, v⟩ := c
    simp only [List.map_cons, List.mem_cons, not_or] at h
    rw [Memory.writeAt, ih _ _ h.2, read_write_other _ _ h.1]

/-- A run of bytes reads back as it was stored. -/
theorem readAt_writeAt (bs : List Byte) : ∀ (k : Nat) (m : Memory),
    (m.writeAt ((span k bs.length).zip bs)).readAt (span k bs.length) = some bs := by
  induction bs with
  | nil => intros; rfl
  | cons b bs ih =>
    intro k m
    simp only [List.length_cons, span, List.range'_succ, List.zip_cons_cons, Memory.writeAt] at ih ⊢
    have h1 : ((m.write k b).writeAt ((List.range' (k + 1) bs.length).zip bs)).read k = some b := by
      rw [read_writeAt_other, read_write_same]
      rw [List.map_fst_zip (by simp)]
      simp only [List.mem_range']
      rintro ⟨x, _, h⟩
      omega
    rw [Memory.readAt, h1, ih (k + 1) (m.write k b)]

end Sys2Proof.Machine
end

