-- ==== Sys2Proof/Laws/State.lean ====
section
/-! SUPPORT. One lemma per field per named update, so that no later proof unfolds a record update. -/

namespace Sys2Proof.Machine

@[simp] theorem putEng_eng (s : State) (e : Engine) : (s.putEng e).eng = e := rfl
@[simp] theorem putEng_h2d (s : State) (e : Engine) : (s.putEng e).h2d = s.h2d := rfl
@[simp] theorem putEng_d2h (s : State) (e : Engine) : (s.putEng e).d2h = s.d2h := rfl
@[simp] theorem putEng_dev (s : State) (e : Engine) : (s.putEng e).dev = s.dev := rfl
@[simp] theorem putEng_fw (s : State) (e : Engine) : (s.putEng e).fw = s.fw := rfl
@[simp] theorem putEng_fwOut (s : State) (e : Engine) : (s.putEng e).fwOut = s.fwOut := rfl
@[simp] theorem putEng_fwEnd (s : State) (e : Engine) : (s.putEng e).fwEnd = s.fwEnd := rfl
@[simp] theorem putEng_peer (s : State) (e : Engine) : (s.putEng e).peer = s.peer := rfl
@[simp] theorem putEng_agenda (s : State) (e : Engine) : (s.putEng e).agenda = s.agenda := rfl
@[simp] theorem putEng_readData (s : State) (e : Engine) : (s.putEng e).readData = s.readData := rfl
@[simp] theorem putEng_free (s : State) (e : Engine) : (s.putEng e).free = s.free := rfl

@[simp] theorem pushH2d_eng (s : State) (b : Byte) : (s.pushH2d b).eng = s.eng := rfl
@[simp] theorem pushH2d_h2d (s : State) (b : Byte) : (s.pushH2d b).h2d = s.h2d ++ [b] := rfl
@[simp] theorem pushH2d_d2h (s : State) (b : Byte) : (s.pushH2d b).d2h = s.d2h := rfl
@[simp] theorem pushH2d_dev (s : State) (b : Byte) : (s.pushH2d b).dev = s.dev := rfl
@[simp] theorem pushH2d_fw (s : State) (b : Byte) : (s.pushH2d b).fw = s.fw := rfl
@[simp] theorem pushH2d_fwOut (s : State) (b : Byte) : (s.pushH2d b).fwOut = s.fwOut := rfl
@[simp] theorem pushH2d_fwEnd (s : State) (b : Byte) : (s.pushH2d b).fwEnd = s.fwEnd := rfl
@[simp] theorem pushH2d_peer (s : State) (b : Byte) : (s.pushH2d b).peer = s.peer := rfl
@[simp] theorem pushH2d_agenda (s : State) (b : Byte) : (s.pushH2d b).agenda = s.agenda := rfl
@[simp] theorem pushH2d_readData (s : State) (b : Byte) : (s.pushH2d b).readData = s.readData := rfl
@[simp] theorem pushH2d_free (s : State) (b : Byte) : (s.pushH2d b).free = s.free := rfl

@[simp] theorem putD2h_eng (s : State) (q : List Byte) : (s.putD2h q).eng = s.eng := rfl
@[simp] theorem putD2h_h2d (s : State) (q : List Byte) : (s.putD2h q).h2d = s.h2d := rfl
@[simp] theorem putD2h_d2h (s : State) (q : List Byte) : (s.putD2h q).d2h = q := rfl
@[simp] theorem putD2h_dev (s : State) (q : List Byte) : (s.putD2h q).dev = s.dev := rfl
@[simp] theorem putD2h_fw (s : State) (q : List Byte) : (s.putD2h q).fw = s.fw := rfl
@[simp] theorem putD2h_fwOut (s : State) (q : List Byte) : (s.putD2h q).fwOut = s.fwOut := rfl
@[simp] theorem putD2h_fwEnd (s : State) (q : List Byte) : (s.putD2h q).fwEnd = s.fwEnd := rfl
@[simp] theorem putD2h_peer (s : State) (q : List Byte) : (s.putD2h q).peer = s.peer := rfl
@[simp] theorem putD2h_agenda (s : State) (q : List Byte) : (s.putD2h q).agenda = s.agenda := rfl
@[simp] theorem putD2h_readData (s : State) (q : List Byte) : (s.putD2h q).readData = s.readData := rfl
@[simp] theorem putD2h_free (s : State) (q : List Byte) : (s.putD2h q).free = s.free := rfl

@[simp] theorem putAgenda_eng (s : State) (l : List Event) : (s.putAgenda l).eng = s.eng := rfl
@[simp] theorem putAgenda_h2d (s : State) (l : List Event) : (s.putAgenda l).h2d = s.h2d := rfl
@[simp] theorem putAgenda_d2h (s : State) (l : List Event) : (s.putAgenda l).d2h = s.d2h := rfl
@[simp] theorem putAgenda_dev (s : State) (l : List Event) : (s.putAgenda l).dev = s.dev := rfl
@[simp] theorem putAgenda_fw (s : State) (l : List Event) : (s.putAgenda l).fw = s.fw := rfl
@[simp] theorem putAgenda_fwOut (s : State) (l : List Event) : (s.putAgenda l).fwOut = s.fwOut := rfl
@[simp] theorem putAgenda_fwEnd (s : State) (l : List Event) : (s.putAgenda l).fwEnd = s.fwEnd := rfl
@[simp] theorem putAgenda_peer (s : State) (l : List Event) : (s.putAgenda l).peer = s.peer := rfl
@[simp] theorem putAgenda_agenda (s : State) (l : List Event) : (s.putAgenda l).agenda = l := rfl
@[simp] theorem putAgenda_readData (s : State) (l : List Event) : (s.putAgenda l).readData = s.readData := rfl
@[simp] theorem putAgenda_free (s : State) (l : List Event) : (s.putAgenda l).free = s.free := rfl

@[simp] theorem openLink_eng (s : State) : (openLink s).eng = s.eng.opened := rfl
@[simp] theorem openLink_h2d (s : State) : (openLink s).h2d = s.h2d := rfl
@[simp] theorem openLink_d2h (s : State) : (openLink s).d2h = [] := rfl
@[simp] theorem openLink_dev (s : State) : (openLink s).dev = s.dev := rfl
@[simp] theorem openLink_fw (s : State) : (openLink s).fw = s.fw := rfl
@[simp] theorem openLink_fwOut (s : State) : (openLink s).fwOut = s.fwOut := rfl
@[simp] theorem openLink_fwEnd (s : State) : (openLink s).fwEnd = s.fwEnd := rfl
@[simp] theorem openLink_peer (s : State) : (openLink s).peer = s.peer := rfl
@[simp] theorem openLink_agenda (s : State) : (openLink s).agenda = s.agenda := rfl
@[simp] theorem openLink_readData (s : State) : (openLink s).readData = s.readData := rfl
@[simp] theorem openLink_free (s : State) : (openLink s).free = s.free := rfl

@[simp] theorem abandonCall_eng (s : State) : (abandonCall s).eng = s.eng := rfl
@[simp] theorem abandonCall_h2d (s : State) : (abandonCall s).h2d = s.h2d := rfl
@[simp] theorem abandonCall_d2h (s : State) : (abandonCall s).d2h = s.d2h := rfl
@[simp] theorem abandonCall_dev (s : State) : (abandonCall s).dev = s.dev := rfl
@[simp] theorem abandonCall_fw (s : State) : (abandonCall s).fw = .none := rfl
@[simp] theorem abandonCall_fwOut (s : State) : (abandonCall s).fwOut = s.fwOut := rfl
@[simp] theorem abandonCall_fwEnd (s : State) :
    (abandonCall s).fwEnd = if s.fw = .none then s.fwEnd else .aborted := rfl
@[simp] theorem abandonCall_peer (s : State) : (abandonCall s).peer = s.peer := rfl
@[simp] theorem abandonCall_agenda (s : State) : (abandonCall s).agenda = s.agenda := rfl
@[simp] theorem abandonCall_readData (s : State) : (abandonCall s).readData = s.readData := rfl
@[simp] theorem abandonCall_free (s : State) : (abandonCall s).free = s.free := rfl

@[simp] theorem closeLink_eng (s : State) : (closeLink s).eng = s.eng.closed := rfl
@[simp] theorem closeLink_h2d (s : State) : (closeLink s).h2d = s.h2d := rfl
@[simp] theorem closeLink_d2h (s : State) : (closeLink s).d2h = s.d2h := rfl
@[simp] theorem closeLink_dev (s : State) : (closeLink s).dev = s.dev := rfl
@[simp] theorem closeLink_fw (s : State) : (closeLink s).fw = .none := rfl
@[simp] theorem closeLink_fwOut (s : State) : (closeLink s).fwOut = s.fwOut := rfl
@[simp] theorem closeLink_fwEnd (s : State) : (closeLink s).fwEnd = (abandonCall s).fwEnd := rfl
@[simp] theorem closeLink_peer (s : State) : (closeLink s).peer = s.peer := rfl
@[simp] theorem closeLink_agenda (s : State) : (closeLink s).agenda = s.agenda := rfl
@[simp] theorem closeLink_readData (s : State) : (closeLink s).readData = s.readData := rfl
@[simp] theorem closeLink_free (s : State) : (closeLink s).free = s.free := rfl

@[simp] theorem resetBlock_eng (s : State) : (resetBlock s).eng = Engine.reset := rfl
@[simp] theorem resetBlock_h2d (s : State) : (resetBlock s).h2d = s.h2d := rfl
@[simp] theorem resetBlock_d2h (s : State) : (resetBlock s).d2h = s.d2h := rfl
@[simp] theorem resetBlock_dev (s : State) : (resetBlock s).dev = s.dev := rfl
@[simp] theorem resetBlock_fw (s : State) : (resetBlock s).fw = .none := rfl
@[simp] theorem resetBlock_fwOut (s : State) : (resetBlock s).fwOut = s.fwOut := rfl
@[simp] theorem resetBlock_fwEnd (s : State) : (resetBlock s).fwEnd = (abandonCall s).fwEnd := rfl
@[simp] theorem resetBlock_peer (s : State) : (resetBlock s).peer = s.peer := rfl
@[simp] theorem resetBlock_agenda (s : State) : (resetBlock s).agenda = s.agenda := rfl
@[simp] theorem resetBlock_readData (s : State) : (resetBlock s).readData = s.readData := rfl
@[simp] theorem resetBlock_free (s : State) : (resetBlock s).free = s.free := rfl

@[simp] theorem expire_eng (s : State) : (expire s).eng = s.eng.raiseErr s.eng.ph.group.expiry := rfl
@[simp] theorem expire_h2d (s : State) : (expire s).h2d = s.h2d := rfl
@[simp] theorem expire_d2h (s : State) : (expire s).d2h = s.d2h := rfl
@[simp] theorem expire_dev (s : State) : (expire s).dev = s.dev := rfl
@[simp] theorem expire_fw (s : State) : (expire s).fw = s.fw := rfl
@[simp] theorem expire_fwOut (s : State) : (expire s).fwOut = s.fwOut := rfl
@[simp] theorem expire_fwEnd (s : State) : (expire s).fwEnd = s.fwEnd := rfl
@[simp] theorem expire_peer (s : State) : (expire s).peer = s.peer := rfl
@[simp] theorem expire_agenda (s : State) : (expire s).agenda = s.agenda := rfl
@[simp] theorem expire_readData (s : State) : (expire s).readData = s.readData := rfl
@[simp] theorem expire_free (s : State) : (expire s).free = s.free := rfl

@[simp] theorem overrun_eng (s : State) : (overrun s).eng = { s.eng with status := s.eng.status.overrun } := rfl
@[simp] theorem overrun_h2d (s : State) : (overrun s).h2d = s.h2d := rfl
@[simp] theorem overrun_d2h (s : State) : (overrun s).d2h = s.d2h := rfl
@[simp] theorem overrun_dev (s : State) : (overrun s).dev = s.dev := rfl
@[simp] theorem overrun_fw (s : State) : (overrun s).fw = s.fw := rfl
@[simp] theorem overrun_fwOut (s : State) : (overrun s).fwOut = s.fwOut := rfl
@[simp] theorem overrun_fwEnd (s : State) : (overrun s).fwEnd = s.fwEnd := rfl
@[simp] theorem overrun_peer (s : State) : (overrun s).peer = s.peer := rfl
@[simp] theorem overrun_agenda (s : State) : (overrun s).agenda = s.agenda := rfl
@[simp] theorem overrun_readData (s : State) : (overrun s).readData = s.readData := rfl
@[simp] theorem overrun_free (s : State) : (overrun s).free = s.free := rfl

@[simp] theorem countUnit_eng (s : State) : (countUnit s).eng = { s.eng with dlt := s.eng.dlt + 1 } := rfl
@[simp] theorem countUnit_h2d (s : State) : (countUnit s).h2d = s.h2d := rfl
@[simp] theorem countUnit_d2h (s : State) : (countUnit s).d2h = s.d2h := rfl
@[simp] theorem countUnit_dev (s : State) : (countUnit s).dev = s.dev := rfl
@[simp] theorem countUnit_fw (s : State) : (countUnit s).fw = s.fw := rfl
@[simp] theorem countUnit_fwOut (s : State) : (countUnit s).fwOut = s.fwOut := rfl
@[simp] theorem countUnit_fwEnd (s : State) : (countUnit s).fwEnd = s.fwEnd := rfl
@[simp] theorem countUnit_peer (s : State) : (countUnit s).peer = s.peer := rfl
@[simp] theorem countUnit_agenda (s : State) : (countUnit s).agenda = s.agenda := rfl
@[simp] theorem countUnit_readData (s : State) : (countUnit s).readData = s.readData := rfl
@[simp] theorem countUnit_free (s : State) : (countUnit s).free = s.free := rfl

@[simp] theorem returns_eng (s : State) (v : HostWord) : (returns s v).eng = s.eng := rfl
@[simp] theorem returns_h2d (s : State) (v : HostWord) : (returns s v).h2d = s.h2d := rfl
@[simp] theorem returns_d2h (s : State) (v : HostWord) : (returns s v).d2h = s.d2h := rfl
@[simp] theorem returns_dev (s : State) (v : HostWord) : (returns s v).dev = s.dev := rfl
@[simp] theorem returns_fw (s : State) (v : HostWord) : (returns s v).fw = s.fw := rfl
@[simp] theorem returns_fwOut (s : State) (v : HostWord) : (returns s v).fwOut = s.fwOut := rfl
@[simp] theorem returns_fwEnd (s : State) (v : HostWord) : (returns s v).fwEnd = s.fwEnd := rfl
@[simp] theorem returns_peer (s : State) (v : HostWord) : (returns s v).peer = s.peer := rfl
@[simp] theorem returns_agenda (s : State) (v : HostWord) : (returns s v).agenda = s.agenda := rfl
@[simp] theorem returns_readData (s : State) (v : HostWord) : (returns s v).readData = v := rfl
@[simp] theorem returns_free (s : State) (v : HostWord) : (returns s v).free = s.free := rfl

@[simp] theorem returnsAny_eng (s : State) (w : Nat) : (returnsAny s w).eng = s.eng := rfl
@[simp] theorem returnsAny_h2d (s : State) (w : Nat) : (returnsAny s w).h2d = s.h2d := rfl
@[simp] theorem returnsAny_d2h (s : State) (w : Nat) : (returnsAny s w).d2h = s.d2h := rfl
@[simp] theorem returnsAny_dev (s : State) (w : Nat) : (returnsAny s w).dev = s.dev := rfl
@[simp] theorem returnsAny_fw (s : State) (w : Nat) : (returnsAny s w).fw = s.fw := rfl
@[simp] theorem returnsAny_fwOut (s : State) (w : Nat) : (returnsAny s w).fwOut = s.fwOut := rfl
@[simp] theorem returnsAny_fwEnd (s : State) (w : Nat) : (returnsAny s w).fwEnd = s.fwEnd := rfl
@[simp] theorem returnsAny_peer (s : State) (w : Nat) : (returnsAny s w).peer = s.peer := rfl
@[simp] theorem returnsAny_agenda (s : State) (w : Nat) : (returnsAny s w).agenda = s.agenda := rfl
@[simp] theorem returnsAny_readData (s : State) (w : Nat) : (returnsAny s w).readData = ((Config.anyRead s.free).setWidth w).setWidth 32 := rfl
@[simp] theorem returnsAny_free (s : State) (w : Nat) : (returnsAny s w).free = s.free + 1 := rfl

@[simp] theorem powerCycle_eng (s : State) : (powerCycle s).eng = s.eng := rfl
@[simp] theorem powerCycle_h2d (s : State) : (powerCycle s).h2d = [] := rfl
@[simp] theorem powerCycle_d2h (s : State) : (powerCycle s).d2h = s.d2h := rfl
@[simp] theorem powerCycle_dev (s : State) : (powerCycle s).dev = { s.dev with emubank := s.dev.emubankP, iobank := Config.anyBank s.free, mem := [] } := rfl
@[simp] theorem powerCycle_fw (s : State) : (powerCycle s).fw = s.fw := rfl
@[simp] theorem powerCycle_fwOut (s : State) : (powerCycle s).fwOut = s.fwOut := rfl
@[simp] theorem powerCycle_fwEnd (s : State) : (powerCycle s).fwEnd = s.fwEnd := rfl
@[simp] theorem powerCycle_peer (s : State) : (powerCycle s).peer = s.peer := rfl
@[simp] theorem powerCycle_agenda (s : State) : (powerCycle s).agenda = s.agenda := rfl
@[simp] theorem powerCycle_readData (s : State) : (powerCycle s).readData = s.readData := rfl
@[simp] theorem powerCycle_free (s : State) : (powerCycle s).free = s.free + 1 := rfl

@[simp] theorem raiseErr_cur (e : Engine) (k : ErrKind) : (e.raiseErr k).cur = e.cur := rfl
@[simp] theorem raiseErr_npages (e : Engine) (k : ErrKind) : (e.raiseErr k).npages = e.npages := rfl
@[simp] theorem raiseErr_bankhi (e : Engine) (k : ErrKind) : (e.raiseErr k).bankhi = e.bankhi := rfl
@[simp] theorem raiseErr_addrhi (e : Engine) (k : ErrKind) : (e.raiseErr k).addrhi = e.addrhi := rfl
@[simp] theorem raiseErr_bank (e : Engine) (k : ErrKind) : (e.raiseErr k).bank = e.bank := rfl
@[simp] theorem raiseErr_isOpen (e : Engine) (k : ErrKind) : (e.raiseErr k).isOpen = e.isOpen := rfl
@[simp] theorem raiseErr_csumEnforce (e : Engine) (k : ErrKind) : (e.raiseErr k).csumEnforce = e.csumEnforce := rfl
@[simp] theorem raiseErr_status (e : Engine) (k : ErrKind) : (e.raiseErr k).status = e.status.raised k := rfl
@[simp] theorem raiseErr_deadline (e : Engine) (k : ErrKind) : (e.raiseErr k).deadline = e.deadline := rfl
@[simp] theorem raiseErr_dlt (e : Engine) (k : ErrKind) : (e.raiseErr k).dlt = e.dlt := rfl
@[simp] theorem raiseErr_res (e : Engine) (k : ErrKind) : (e.raiseErr k).res = e.res := rfl
@[simp] theorem raiseErr_txsum (e : Engine) (k : ErrKind) : (e.raiseErr k).txsum = e.txsum := rfl
@[simp] theorem raiseErr_rxsum (e : Engine) (k : ErrKind) : (e.raiseErr k).rxsum = e.rxsum := rfl
@[simp] theorem raiseErr_rxcs (e : Engine) (k : ErrKind) : (e.raiseErr k).rxcs = e.rxcs := rfl
@[simp] theorem raiseErr_ph (e : Engine) (k : ErrKind) : (e.raiseErr k).ph = .idle := rfl
@[simp] theorem raiseErr_idx (e : Engine) (k : ErrKind) : (e.raiseErr k).idx = e.idx := rfl
@[simp] theorem raiseErr_txbuf (e : Engine) (k : ErrKind) : (e.raiseErr k).txbuf = e.txbuf := rfl
@[simp] theorem raiseErr_rxbuf (e : Engine) (k : ErrKind) : (e.raiseErr k).rxbuf = e.rxbuf := rfl
@[simp] theorem raiseErr_command (e : Engine) (k : ErrKind) : (e.raiseErr k).command = e.command := rfl
@[simp] theorem raiseErr_hdr (e : Engine) (k : ErrKind) : (e.raiseErr k).hdr = e.hdr := rfl
@[simp] theorem raiseErr_plen (e : Engine) (k : ErrKind) : (e.raiseErr k).plen = e.plen := rfl
@[simp] theorem raiseErr_checksummed (e : Engine) (k : ErrKind) : (e.raiseErr k).checksummed = e.checksummed := rfl
@[simp] theorem raiseErr_rlen (e : Engine) (k : ErrKind) : (e.raiseErr k).rlen = e.rlen := rfl
@[simp] theorem raiseErr_rxPhase (e : Engine) (k : ErrKind) : (e.raiseErr k).rxPhase = e.rxPhase := rfl

@[simp] theorem complete_cur (e : Engine) : (e.complete).cur = e.cur := rfl
@[simp] theorem complete_npages (e : Engine) : (e.complete).npages = e.npages := rfl
@[simp] theorem complete_bankhi (e : Engine) : (e.complete).bankhi = e.bankhi := rfl
@[simp] theorem complete_addrhi (e : Engine) : (e.complete).addrhi = e.addrhi := rfl
@[simp] theorem complete_bank (e : Engine) : (e.complete).bank = e.bank := rfl
@[simp] theorem complete_isOpen (e : Engine) : (e.complete).isOpen = e.isOpen := rfl
@[simp] theorem complete_csumEnforce (e : Engine) : (e.complete).csumEnforce = e.csumEnforce := rfl
@[simp] theorem complete_status (e : Engine) : (e.complete).status = e.status.completed := rfl
@[simp] theorem complete_deadline (e : Engine) : (e.complete).deadline = e.deadline := rfl
@[simp] theorem complete_dlt (e : Engine) : (e.complete).dlt = e.dlt := rfl
@[simp] theorem complete_res (e : Engine) : (e.complete).res = e.res := rfl
@[simp] theorem complete_txsum (e : Engine) : (e.complete).txsum = e.txsum := rfl
@[simp] theorem complete_rxsum (e : Engine) : (e.complete).rxsum = e.rxsum := rfl
@[simp] theorem complete_rxcs (e : Engine) : (e.complete).rxcs = e.rxcs := rfl
@[simp] theorem complete_ph (e : Engine) : (e.complete).ph = .idle := rfl
@[simp] theorem complete_idx (e : Engine) : (e.complete).idx = 0 := rfl
@[simp] theorem complete_txbuf (e : Engine) : (e.complete).txbuf = e.txbuf := rfl
@[simp] theorem complete_rxbuf (e : Engine) : (e.complete).rxbuf = e.rxbuf := rfl
@[simp] theorem complete_command (e : Engine) : (e.complete).command = e.command := rfl
@[simp] theorem complete_hdr (e : Engine) : (e.complete).hdr = e.hdr := rfl
@[simp] theorem complete_plen (e : Engine) : (e.complete).plen = e.plen := rfl
@[simp] theorem complete_checksummed (e : Engine) : (e.complete).checksummed = e.checksummed := rfl
@[simp] theorem complete_rlen (e : Engine) : (e.complete).rlen = e.rlen := rfl
@[simp] theorem complete_rxPhase (e : Engine) : (e.complete).rxPhase = e.rxPhase := rfl

@[simp] theorem opened_cur (e : Engine) : (e.opened).cur = e.cur := rfl
@[simp] theorem opened_npages (e : Engine) : (e.opened).npages = e.npages := rfl
@[simp] theorem opened_bankhi (e : Engine) : (e.opened).bankhi = e.bankhi := rfl
@[simp] theorem opened_addrhi (e : Engine) : (e.opened).addrhi = e.addrhi := rfl
@[simp] theorem opened_bank (e : Engine) : (e.opened).bank = e.bank := rfl
@[simp] theorem opened_isOpen (e : Engine) : (e.opened).isOpen = true := rfl
@[simp] theorem opened_csumEnforce (e : Engine) : (e.opened).csumEnforce = e.csumEnforce := rfl
@[simp] theorem opened_status (e : Engine) : (e.opened).status = e.status.opened := rfl
@[simp] theorem opened_deadline (e : Engine) : (e.opened).deadline = e.deadline := rfl
@[simp] theorem opened_dlt (e : Engine) : (e.opened).dlt = e.dlt := rfl
@[simp] theorem opened_res (e : Engine) : (e.opened).res = e.res := rfl
@[simp] theorem opened_txsum (e : Engine) : (e.opened).txsum = e.txsum := rfl
@[simp] theorem opened_rxsum (e : Engine) : (e.opened).rxsum = e.rxsum := rfl
@[simp] theorem opened_rxcs (e : Engine) : (e.opened).rxcs = e.rxcs := rfl
@[simp] theorem opened_ph (e : Engine) : (e.opened).ph = .idle := rfl
@[simp] theorem opened_idx (e : Engine) : (e.opened).idx = 0 := rfl
@[simp] theorem opened_txbuf (e : Engine) : (e.opened).txbuf = e.txbuf := rfl
@[simp] theorem opened_rxbuf (e : Engine) : (e.opened).rxbuf = e.rxbuf := rfl
@[simp] theorem opened_command (e : Engine) : (e.opened).command = e.command := rfl
@[simp] theorem opened_hdr (e : Engine) : (e.opened).hdr = e.hdr := rfl
@[simp] theorem opened_plen (e : Engine) : (e.opened).plen = e.plen := rfl
@[simp] theorem opened_checksummed (e : Engine) : (e.opened).checksummed = e.checksummed := rfl
@[simp] theorem opened_rlen (e : Engine) : (e.opened).rlen = e.rlen := rfl
@[simp] theorem opened_rxPhase (e : Engine) : (e.opened).rxPhase = e.rxPhase := rfl

@[simp] theorem enterRx_cur (e : Engine) : (e.enterRx).cur = e.cur := rfl
@[simp] theorem enterRx_npages (e : Engine) : (e.enterRx).npages = e.npages := rfl
@[simp] theorem enterRx_bankhi (e : Engine) : (e.enterRx).bankhi = e.bankhi := rfl
@[simp] theorem enterRx_addrhi (e : Engine) : (e.enterRx).addrhi = e.addrhi := rfl
@[simp] theorem enterRx_bank (e : Engine) : (e.enterRx).bank = e.bank := rfl
@[simp] theorem enterRx_isOpen (e : Engine) : (e.enterRx).isOpen = e.isOpen := rfl
@[simp] theorem enterRx_csumEnforce (e : Engine) : (e.enterRx).csumEnforce = e.csumEnforce := rfl
@[simp] theorem enterRx_status (e : Engine) : (e.enterRx).status = e.status := rfl
@[simp] theorem enterRx_deadline (e : Engine) : (e.enterRx).deadline = e.deadline := rfl
@[simp] theorem enterRx_dlt (e : Engine) : (e.enterRx).dlt = 0 := rfl
@[simp] theorem enterRx_res (e : Engine) : (e.enterRx).res = e.res := rfl
@[simp] theorem enterRx_txsum (e : Engine) : (e.enterRx).txsum = e.txsum := rfl
@[simp] theorem enterRx_rxsum (e : Engine) : (e.enterRx).rxsum = e.rxsum := rfl
@[simp] theorem enterRx_rxcs (e : Engine) : (e.enterRx).rxcs = e.rxcs := rfl
@[simp] theorem enterRx_ph (e : Engine) : (e.enterRx).ph = e.rxPhase := rfl
@[simp] theorem enterRx_idx (e : Engine) : (e.enterRx).idx = 0 := rfl
@[simp] theorem enterRx_txbuf (e : Engine) : (e.enterRx).txbuf = e.txbuf := rfl
@[simp] theorem enterRx_rxbuf (e : Engine) : (e.enterRx).rxbuf = e.rxbuf := rfl
@[simp] theorem enterRx_command (e : Engine) : (e.enterRx).command = e.command := rfl
@[simp] theorem enterRx_hdr (e : Engine) : (e.enterRx).hdr = e.hdr := rfl
@[simp] theorem enterRx_plen (e : Engine) : (e.enterRx).plen = e.plen := rfl
@[simp] theorem enterRx_checksummed (e : Engine) : (e.enterRx).checksummed = e.checksummed := rfl
@[simp] theorem enterRx_rlen (e : Engine) : (e.enterRx).rlen = e.rlen := rfl
@[simp] theorem enterRx_rxPhase (e : Engine) : (e.enterRx).rxPhase = e.rxPhase := rfl

@[simp] theorem setRes_cur (e : Engine) (i : Nat) (b : Byte) : (e.setRes i b).cur = e.cur := rfl
@[simp] theorem setRes_npages (e : Engine) (i : Nat) (b : Byte) : (e.setRes i b).npages = e.npages := rfl
@[simp] theorem setRes_bankhi (e : Engine) (i : Nat) (b : Byte) : (e.setRes i b).bankhi = e.bankhi := rfl
@[simp] theorem setRes_addrhi (e : Engine) (i : Nat) (b : Byte) : (e.setRes i b).addrhi = e.addrhi := rfl
@[simp] theorem setRes_bank (e : Engine) (i : Nat) (b : Byte) : (e.setRes i b).bank = e.bank := rfl
@[simp] theorem setRes_isOpen (e : Engine) (i : Nat) (b : Byte) : (e.setRes i b).isOpen = e.isOpen := rfl
@[simp] theorem setRes_csumEnforce (e : Engine) (i : Nat) (b : Byte) : (e.setRes i b).csumEnforce = e.csumEnforce := rfl
@[simp] theorem setRes_status (e : Engine) (i : Nat) (b : Byte) : (e.setRes i b).status = e.status := rfl
@[simp] theorem setRes_deadline (e : Engine) (i : Nat) (b : Byte) : (e.setRes i b).deadline = e.deadline := rfl
@[simp] theorem setRes_dlt (e : Engine) (i : Nat) (b : Byte) : (e.setRes i b).dlt = e.dlt := rfl
@[simp] theorem setRes_res (e : Engine) (i : Nat) (b : Byte) : (e.setRes i b).res = e.res.setIfInBounds i b := rfl
@[simp] theorem setRes_txsum (e : Engine) (i : Nat) (b : Byte) : (e.setRes i b).txsum = e.txsum := rfl
@[simp] theorem setRes_rxsum (e : Engine) (i : Nat) (b : Byte) : (e.setRes i b).rxsum = e.rxsum := rfl
@[simp] theorem setRes_rxcs (e : Engine) (i : Nat) (b : Byte) : (e.setRes i b).rxcs = e.rxcs := rfl
@[simp] theorem setRes_ph (e : Engine) (i : Nat) (b : Byte) : (e.setRes i b).ph = e.ph := rfl
@[simp] theorem setRes_idx (e : Engine) (i : Nat) (b : Byte) : (e.setRes i b).idx = e.idx := rfl
@[simp] theorem setRes_txbuf (e : Engine) (i : Nat) (b : Byte) : (e.setRes i b).txbuf = e.txbuf := rfl
@[simp] theorem setRes_rxbuf (e : Engine) (i : Nat) (b : Byte) : (e.setRes i b).rxbuf = e.rxbuf := rfl
@[simp] theorem setRes_command (e : Engine) (i : Nat) (b : Byte) : (e.setRes i b).command = e.command := rfl
@[simp] theorem setRes_hdr (e : Engine) (i : Nat) (b : Byte) : (e.setRes i b).hdr = e.hdr := rfl
@[simp] theorem setRes_plen (e : Engine) (i : Nat) (b : Byte) : (e.setRes i b).plen = e.plen := rfl
@[simp] theorem setRes_checksummed (e : Engine) (i : Nat) (b : Byte) : (e.setRes i b).checksummed = e.checksummed := rfl
@[simp] theorem setRes_rlen (e : Engine) (i : Nat) (b : Byte) : (e.setRes i b).rlen = e.rlen := rfl
@[simp] theorem setRes_rxPhase (e : Engine) (i : Nat) (b : Byte) : (e.setRes i b).rxPhase = e.rxPhase := rfl

@[simp] theorem summedTx_cur (e : Engine) (b : Byte) : (e.summedTx b).cur = e.cur := rfl
@[simp] theorem summedTx_npages (e : Engine) (b : Byte) : (e.summedTx b).npages = e.npages := rfl
@[simp] theorem summedTx_bankhi (e : Engine) (b : Byte) : (e.summedTx b).bankhi = e.bankhi := rfl
@[simp] theorem summedTx_addrhi (e : Engine) (b : Byte) : (e.summedTx b).addrhi = e.addrhi := rfl
@[simp] theorem summedTx_bank (e : Engine) (b : Byte) : (e.summedTx b).bank = e.bank := rfl
@[simp] theorem summedTx_isOpen (e : Engine) (b : Byte) : (e.summedTx b).isOpen = e.isOpen := rfl
@[simp] theorem summedTx_csumEnforce (e : Engine) (b : Byte) : (e.summedTx b).csumEnforce = e.csumEnforce := rfl
@[simp] theorem summedTx_status (e : Engine) (b : Byte) : (e.summedTx b).status = e.status := rfl
@[simp] theorem summedTx_deadline (e : Engine) (b : Byte) : (e.summedTx b).deadline = e.deadline := rfl
@[simp] theorem summedTx_dlt (e : Engine) (b : Byte) : (e.summedTx b).dlt = e.dlt := rfl
@[simp] theorem summedTx_res (e : Engine) (b : Byte) : (e.summedTx b).res = e.res := rfl
@[simp] theorem summedTx_txsum (e : Engine) (b : Byte) : (e.summedTx b).txsum = e.txsum + b := rfl
@[simp] theorem summedTx_rxsum (e : Engine) (b : Byte) : (e.summedTx b).rxsum = e.rxsum := rfl
@[simp] theorem summedTx_rxcs (e : Engine) (b : Byte) : (e.summedTx b).rxcs = e.rxcs := rfl
@[simp] theorem summedTx_ph (e : Engine) (b : Byte) : (e.summedTx b).ph = e.ph := rfl
@[simp] theorem summedTx_idx (e : Engine) (b : Byte) : (e.summedTx b).idx = e.idx := rfl
@[simp] theorem summedTx_txbuf (e : Engine) (b : Byte) : (e.summedTx b).txbuf = e.txbuf := rfl
@[simp] theorem summedTx_rxbuf (e : Engine) (b : Byte) : (e.summedTx b).rxbuf = e.rxbuf := rfl
@[simp] theorem summedTx_command (e : Engine) (b : Byte) : (e.summedTx b).command = e.command := rfl
@[simp] theorem summedTx_hdr (e : Engine) (b : Byte) : (e.summedTx b).hdr = e.hdr := rfl
@[simp] theorem summedTx_plen (e : Engine) (b : Byte) : (e.summedTx b).plen = e.plen := rfl
@[simp] theorem summedTx_checksummed (e : Engine) (b : Byte) : (e.summedTx b).checksummed = e.checksummed := rfl
@[simp] theorem summedTx_rlen (e : Engine) (b : Byte) : (e.summedTx b).rlen = e.rlen := rfl
@[simp] theorem summedTx_rxPhase (e : Engine) (b : Byte) : (e.summedTx b).rxPhase = e.rxPhase := rfl

@[simp] theorem summedRx_cur (e : Engine) (b : Byte) : (e.summedRx b).cur = e.cur := rfl
@[simp] theorem summedRx_npages (e : Engine) (b : Byte) : (e.summedRx b).npages = e.npages := rfl
@[simp] theorem summedRx_bankhi (e : Engine) (b : Byte) : (e.summedRx b).bankhi = e.bankhi := rfl
@[simp] theorem summedRx_addrhi (e : Engine) (b : Byte) : (e.summedRx b).addrhi = e.addrhi := rfl
@[simp] theorem summedRx_bank (e : Engine) (b : Byte) : (e.summedRx b).bank = e.bank := rfl
@[simp] theorem summedRx_isOpen (e : Engine) (b : Byte) : (e.summedRx b).isOpen = e.isOpen := rfl
@[simp] theorem summedRx_csumEnforce (e : Engine) (b : Byte) : (e.summedRx b).csumEnforce = e.csumEnforce := rfl
@[simp] theorem summedRx_status (e : Engine) (b : Byte) : (e.summedRx b).status = e.status := rfl
@[simp] theorem summedRx_deadline (e : Engine) (b : Byte) : (e.summedRx b).deadline = e.deadline := rfl
@[simp] theorem summedRx_dlt (e : Engine) (b : Byte) : (e.summedRx b).dlt = e.dlt := rfl
@[simp] theorem summedRx_res (e : Engine) (b : Byte) : (e.summedRx b).res = e.res := rfl
@[simp] theorem summedRx_txsum (e : Engine) (b : Byte) : (e.summedRx b).txsum = e.txsum := rfl
@[simp] theorem summedRx_rxsum (e : Engine) (b : Byte) : (e.summedRx b).rxsum = e.rxsum + b := rfl
@[simp] theorem summedRx_rxcs (e : Engine) (b : Byte) : (e.summedRx b).rxcs = e.rxcs := rfl
@[simp] theorem summedRx_ph (e : Engine) (b : Byte) : (e.summedRx b).ph = e.ph := rfl
@[simp] theorem summedRx_idx (e : Engine) (b : Byte) : (e.summedRx b).idx = e.idx := rfl
@[simp] theorem summedRx_txbuf (e : Engine) (b : Byte) : (e.summedRx b).txbuf = e.txbuf := rfl
@[simp] theorem summedRx_rxbuf (e : Engine) (b : Byte) : (e.summedRx b).rxbuf = e.rxbuf := rfl
@[simp] theorem summedRx_command (e : Engine) (b : Byte) : (e.summedRx b).command = e.command := rfl
@[simp] theorem summedRx_hdr (e : Engine) (b : Byte) : (e.summedRx b).hdr = e.hdr := rfl
@[simp] theorem summedRx_plen (e : Engine) (b : Byte) : (e.summedRx b).plen = e.plen := rfl
@[simp] theorem summedRx_checksummed (e : Engine) (b : Byte) : (e.summedRx b).checksummed = e.checksummed := rfl
@[simp] theorem summedRx_rlen (e : Engine) (b : Byte) : (e.summedRx b).rlen = e.rlen := rfl
@[simp] theorem summedRx_rxPhase (e : Engine) (b : Byte) : (e.summedRx b).rxPhase = e.rxPhase := rfl

@[simp] theorem tookCsum_cur (e : Engine) (c : Byte) : (e.tookCsum c).cur = e.cur := rfl
@[simp] theorem tookCsum_npages (e : Engine) (c : Byte) : (e.tookCsum c).npages = e.npages := rfl
@[simp] theorem tookCsum_bankhi (e : Engine) (c : Byte) : (e.tookCsum c).bankhi = e.bankhi := rfl
@[simp] theorem tookCsum_addrhi (e : Engine) (c : Byte) : (e.tookCsum c).addrhi = e.addrhi := rfl
@[simp] theorem tookCsum_bank (e : Engine) (c : Byte) : (e.tookCsum c).bank = e.bank := rfl
@[simp] theorem tookCsum_isOpen (e : Engine) (c : Byte) : (e.tookCsum c).isOpen = e.isOpen := rfl
@[simp] theorem tookCsum_csumEnforce (e : Engine) (c : Byte) : (e.tookCsum c).csumEnforce = e.csumEnforce := rfl
@[simp] theorem tookCsum_status (e : Engine) (c : Byte) : (e.tookCsum c).status = e.status := rfl
@[simp] theorem tookCsum_deadline (e : Engine) (c : Byte) : (e.tookCsum c).deadline = e.deadline := rfl
@[simp] theorem tookCsum_dlt (e : Engine) (c : Byte) : (e.tookCsum c).dlt = e.dlt := rfl
@[simp] theorem tookCsum_res (e : Engine) (c : Byte) : (e.tookCsum c).res = e.res := rfl
@[simp] theorem tookCsum_txsum (e : Engine) (c : Byte) : (e.tookCsum c).txsum = e.txsum := rfl
@[simp] theorem tookCsum_rxsum (e : Engine) (c : Byte) : (e.tookCsum c).rxsum = e.rxsum := rfl
@[simp] theorem tookCsum_rxcs (e : Engine) (c : Byte) : (e.tookCsum c).rxcs = c := rfl
@[simp] theorem tookCsum_ph (e : Engine) (c : Byte) : (e.tookCsum c).ph = e.ph := rfl
@[simp] theorem tookCsum_idx (e : Engine) (c : Byte) : (e.tookCsum c).idx = e.idx := rfl
@[simp] theorem tookCsum_txbuf (e : Engine) (c : Byte) : (e.tookCsum c).txbuf = e.txbuf := rfl
@[simp] theorem tookCsum_rxbuf (e : Engine) (c : Byte) : (e.tookCsum c).rxbuf = e.rxbuf := rfl
@[simp] theorem tookCsum_command (e : Engine) (c : Byte) : (e.tookCsum c).command = e.command := rfl
@[simp] theorem tookCsum_hdr (e : Engine) (c : Byte) : (e.tookCsum c).hdr = e.hdr := rfl
@[simp] theorem tookCsum_plen (e : Engine) (c : Byte) : (e.tookCsum c).plen = e.plen := rfl
@[simp] theorem tookCsum_checksummed (e : Engine) (c : Byte) : (e.tookCsum c).checksummed = e.checksummed := rfl
@[simp] theorem tookCsum_rlen (e : Engine) (c : Byte) : (e.tookCsum c).rlen = e.rlen := rfl
@[simp] theorem tookCsum_rxPhase (e : Engine) (c : Byte) : (e.tookCsum c).rxPhase = e.rxPhase := rfl

@[simp] theorem engMismatched_cur (e : Engine) : (e.mismatched).cur = e.cur := rfl
@[simp] theorem engMismatched_npages (e : Engine) : (e.mismatched).npages = e.npages := rfl
@[simp] theorem engMismatched_bankhi (e : Engine) : (e.mismatched).bankhi = e.bankhi := rfl
@[simp] theorem engMismatched_addrhi (e : Engine) : (e.mismatched).addrhi = e.addrhi := rfl
@[simp] theorem engMismatched_bank (e : Engine) : (e.mismatched).bank = e.bank := rfl
@[simp] theorem engMismatched_isOpen (e : Engine) : (e.mismatched).isOpen = e.isOpen := rfl
@[simp] theorem engMismatched_csumEnforce (e : Engine) : (e.mismatched).csumEnforce = e.csumEnforce := rfl
@[simp] theorem engMismatched_status (e : Engine) : (e.mismatched).status = e.status.mismatched := rfl
@[simp] theorem engMismatched_deadline (e : Engine) : (e.mismatched).deadline = e.deadline := rfl
@[simp] theorem engMismatched_dlt (e : Engine) : (e.mismatched).dlt = e.dlt := rfl
@[simp] theorem engMismatched_res (e : Engine) : (e.mismatched).res = e.res := rfl
@[simp] theorem engMismatched_txsum (e : Engine) : (e.mismatched).txsum = e.txsum := rfl
@[simp] theorem engMismatched_rxsum (e : Engine) : (e.mismatched).rxsum = e.rxsum := rfl
@[simp] theorem engMismatched_rxcs (e : Engine) : (e.mismatched).rxcs = e.rxcs := rfl
@[simp] theorem engMismatched_ph (e : Engine) : (e.mismatched).ph = e.ph := rfl
@[simp] theorem engMismatched_idx (e : Engine) : (e.mismatched).idx = e.idx := rfl
@[simp] theorem engMismatched_txbuf (e : Engine) : (e.mismatched).txbuf = e.txbuf := rfl
@[simp] theorem engMismatched_rxbuf (e : Engine) : (e.mismatched).rxbuf = e.rxbuf := rfl
@[simp] theorem engMismatched_command (e : Engine) : (e.mismatched).command = e.command := rfl
@[simp] theorem engMismatched_hdr (e : Engine) : (e.mismatched).hdr = e.hdr := rfl
@[simp] theorem engMismatched_plen (e : Engine) : (e.mismatched).plen = e.plen := rfl
@[simp] theorem engMismatched_checksummed (e : Engine) : (e.mismatched).checksummed = e.checksummed := rfl
@[simp] theorem engMismatched_rlen (e : Engine) : (e.mismatched).rlen = e.rlen := rfl
@[simp] theorem engMismatched_rxPhase (e : Engine) : (e.mismatched).rxPhase = e.rxPhase := rfl

@[simp] theorem moveTo_cur (e : Engine) (p : Phase) (i : BitVec 16) : (e.moveTo p i).cur = e.cur := rfl
@[simp] theorem moveTo_npages (e : Engine) (p : Phase) (i : BitVec 16) : (e.moveTo p i).npages = e.npages := rfl
@[simp] theorem moveTo_bankhi (e : Engine) (p : Phase) (i : BitVec 16) : (e.moveTo p i).bankhi = e.bankhi := rfl
@[simp] theorem moveTo_addrhi (e : Engine) (p : Phase) (i : BitVec 16) : (e.moveTo p i).addrhi = e.addrhi := rfl
@[simp] theorem moveTo_bank (e : Engine) (p : Phase) (i : BitVec 16) : (e.moveTo p i).bank = e.bank := rfl
@[simp] theorem moveTo_isOpen (e : Engine) (p : Phase) (i : BitVec 16) : (e.moveTo p i).isOpen = e.isOpen := rfl
@[simp] theorem moveTo_csumEnforce (e : Engine) (p : Phase) (i : BitVec 16) : (e.moveTo p i).csumEnforce = e.csumEnforce := rfl
@[simp] theorem moveTo_status (e : Engine) (p : Phase) (i : BitVec 16) : (e.moveTo p i).status = e.status := rfl
@[simp] theorem moveTo_deadline (e : Engine) (p : Phase) (i : BitVec 16) : (e.moveTo p i).deadline = e.deadline := rfl
@[simp] theorem moveTo_dlt (e : Engine) (p : Phase) (i : BitVec 16) : (e.moveTo p i).dlt = e.dlt := rfl
@[simp] theorem moveTo_res (e : Engine) (p : Phase) (i : BitVec 16) : (e.moveTo p i).res = e.res := rfl
@[simp] theorem moveTo_txsum (e : Engine) (p : Phase) (i : BitVec 16) : (e.moveTo p i).txsum = e.txsum := rfl
@[simp] theorem moveTo_rxsum (e : Engine) (p : Phase) (i : BitVec 16) : (e.moveTo p i).rxsum = e.rxsum := rfl
@[simp] theorem moveTo_rxcs (e : Engine) (p : Phase) (i : BitVec 16) : (e.moveTo p i).rxcs = e.rxcs := rfl
@[simp] theorem moveTo_ph (e : Engine) (p : Phase) (i : BitVec 16) : (e.moveTo p i).ph = p := rfl
@[simp] theorem moveTo_idx (e : Engine) (p : Phase) (i : BitVec 16) : (e.moveTo p i).idx = i := rfl
@[simp] theorem moveTo_txbuf (e : Engine) (p : Phase) (i : BitVec 16) : (e.moveTo p i).txbuf = e.txbuf := rfl
@[simp] theorem moveTo_rxbuf (e : Engine) (p : Phase) (i : BitVec 16) : (e.moveTo p i).rxbuf = e.rxbuf := rfl
@[simp] theorem moveTo_command (e : Engine) (p : Phase) (i : BitVec 16) : (e.moveTo p i).command = e.command := rfl
@[simp] theorem moveTo_hdr (e : Engine) (p : Phase) (i : BitVec 16) : (e.moveTo p i).hdr = e.hdr := rfl
@[simp] theorem moveTo_plen (e : Engine) (p : Phase) (i : BitVec 16) : (e.moveTo p i).plen = e.plen := rfl
@[simp] theorem moveTo_checksummed (e : Engine) (p : Phase) (i : BitVec 16) : (e.moveTo p i).checksummed = e.checksummed := rfl
@[simp] theorem moveTo_rlen (e : Engine) (p : Phase) (i : BitVec 16) : (e.moveTo p i).rlen = e.rlen := rfl
@[simp] theorem moveTo_rxPhase (e : Engine) (p : Phase) (i : BitVec 16) : (e.moveTo p i).rxPhase = e.rxPhase := rfl

@[simp] theorem raised_busy (s : Status) (k : ErrKind) : (s.raised k).busy = false := rfl
@[simp] theorem raised_done (s : Status) (k : ErrKind) : (s.raised k).done = true := rfl
@[simp] theorem raised_fault (s : Status) (k : ErrKind) : (s.raised k).fault = true := rfl
@[simp] theorem raised_csm (s : Status) (k : ErrKind) : (s.raised k).csm = s.csm := rfl
@[simp] theorem raised_ovr (s : Status) (k : ErrKind) : (s.raised k).ovr = s.ovr := rfl
@[simp] theorem raised_err (s : Status) (k : ErrKind) : (s.raised k).err = k := rfl

@[simp] theorem completed_busy (s : Status) : (s.completed).busy = false := rfl
@[simp] theorem completed_done (s : Status) : (s.completed).done = true := rfl
@[simp] theorem completed_fault (s : Status) : (s.completed).fault = s.fault := rfl
@[simp] theorem completed_csm (s : Status) : (s.completed).csm = s.csm := rfl
@[simp] theorem completed_ovr (s : Status) : (s.completed).ovr = s.ovr := rfl
@[simp] theorem completed_err (s : Status) : (s.completed).err = s.err := rfl

@[simp] theorem refused_busy (s : Status) : (s.refused).busy = s.busy := rfl
@[simp] theorem refused_done (s : Status) : (s.refused).done = true := rfl
@[simp] theorem refused_fault (s : Status) : (s.refused).fault = s.fault := rfl
@[simp] theorem refused_csm (s : Status) : (s.refused).csm = s.csm := rfl
@[simp] theorem refused_ovr (s : Status) : (s.refused).ovr = s.ovr := rfl
@[simp] theorem refused_err (s : Status) : (s.refused).err = .precond := rfl

@[simp] theorem accepted_busy (s : Status) : (s.accepted).busy = true := rfl
@[simp] theorem accepted_done (s : Status) : (s.accepted).done = false := rfl
@[simp] theorem accepted_fault (s : Status) : (s.accepted).fault = s.fault := rfl
@[simp] theorem accepted_csm (s : Status) : (s.accepted).csm = false := rfl
@[simp] theorem accepted_ovr (s : Status) : (s.accepted).ovr = s.ovr := rfl
@[simp] theorem accepted_err (s : Status) : (s.accepted).err = .none := rfl

@[simp] theorem statusOpened_busy (s : Status) : (s.opened).busy = s.busy := rfl
@[simp] theorem statusOpened_done (s : Status) : (s.opened).done = false := rfl
@[simp] theorem statusOpened_fault (s : Status) : (s.opened).fault = false := rfl
@[simp] theorem statusOpened_csm (s : Status) : (s.opened).csm = false := rfl
@[simp] theorem statusOpened_ovr (s : Status) : (s.opened).ovr = false := rfl
@[simp] theorem statusOpened_err (s : Status) : (s.opened).err = .none := rfl

@[simp] theorem statusOverrun_busy (s : Status) : (s.overrun).busy = s.busy := rfl
@[simp] theorem statusOverrun_done (s : Status) : (s.overrun).done = s.done := rfl
@[simp] theorem statusOverrun_fault (s : Status) : (s.overrun).fault = s.fault := rfl
@[simp] theorem statusOverrun_csm (s : Status) : (s.overrun).csm = s.csm := rfl
@[simp] theorem statusOverrun_ovr (s : Status) : (s.overrun).ovr = true := rfl
@[simp] theorem statusOverrun_err (s : Status) : (s.overrun).err = s.err := rfl

@[simp] theorem mismatched_busy (s : Status) : (s.mismatched).busy = s.busy := rfl
@[simp] theorem mismatched_done (s : Status) : (s.mismatched).done = s.done := rfl
@[simp] theorem mismatched_fault (s : Status) : (s.mismatched).fault = s.fault := rfl
@[simp] theorem mismatched_csm (s : Status) : (s.mismatched).csm = true := rfl
@[simp] theorem mismatched_ovr (s : Status) : (s.mismatched).ovr = s.ovr := rfl
@[simp] theorem mismatched_err (s : Status) : (s.mismatched).err = s.err := rfl

@[simp] theorem aborted_busy (s : Status) : (s.aborted).busy = false := rfl
@[simp] theorem aborted_done (s : Status) : (s.aborted).done = s.done := rfl
@[simp] theorem aborted_fault (s : Status) : (s.aborted).fault = s.fault := rfl
@[simp] theorem aborted_csm (s : Status) : (s.aborted).csm = s.csm := rfl
@[simp] theorem aborted_ovr (s : Status) : (s.aborted).ovr = s.ovr := rfl
@[simp] theorem aborted_err (s : Status) : (s.aborted).err = s.err := rfl

end Sys2Proof.Machine
end

