-- ==== Sys2Proof/Laws/Ops.lean ====
section
/-! SUPPORT. For each shared operation, once, everything it can do: cite these instead of unfolding the operation. -/

namespace Sys2Proof.Machine

/-! ### The engine's byte step -/

theorem group_idle_iff (p : Phase) : p.group = .idle ↔ p = .idle := by cases p <;> simp [Phase.group]

/-- Everything a byte step that goes on can do (41_framer R152 to R160). -/
theorem byteStep_cases {s s' : State} (h : byteStep s = .next s') :
    (byteEnabled s = false ∧ s' = s) ∨
    (∃ b, s.eng.ph.group = .transmit ∧ s.eng.txByte = some b ∧
      s' = (s.pushH2d b).putEng (s.eng.afterTx b)) ∨
    (∃ b rest, s.eng.ph.group = .receive ∧ s.d2h = b :: rest ∧
      s' = (s.putD2h rest).putEng (s.eng.afterRx b)) := by
  unfold byteStep at h
  split at h
  · rename_i hg
    obtain rfl := Host.Outcome.next.inj h
    exact .inl ⟨by simp [byteEnabled, hg], rfl⟩
  · rename_i hg
    split at h
    · rename_i b hb
      obtain rfl := Host.Outcome.next.inj h
      exact .inr (.inl ⟨b, hg, hb, rfl⟩)
    · cases h
  · rename_i hg
    split at h
    · rename_i hd
      obtain rfl := Host.Outcome.next.inj h
      exact .inl ⟨by simp [byteEnabled, hg, hd], rfl⟩
    · rename_i b rest hd
      obtain rfl := Host.Outcome.next.inj h
      exact .inr (.inr ⟨b, rest, hg, hd, rfl⟩)

/-- The one way a byte step stops (10_state R38). -/
theorem byteStep_fault {s : State} {f : Fault} (h : byteStep s = .fault f) :
    f = .txbufUnwritten ∧ s.eng.ph.group = .transmit ∧ s.eng.txByte = none := by
  unfold byteStep at h
  split at h
  · cases h
  · rename_i hg
    split at h
    · cases h
    · rename_i hb
      cases h
      exact ⟨rfl, hg, hb⟩
  · split at h <;> cases h

theorem byteStep_ne_refused (s : State) (r : Refusal) : byteStep s ≠ .refused r := by
  unfold byteStep
  split
  · simp
  · split <;> simp
  · split <;> simp

/-- A transmit phase sends its byte. -/
theorem byteStep_transmit {s : State} {b : Byte} (hg : s.eng.ph.group = .transmit) (hb : s.eng.txByte = some b) :
    byteStep s = .next ((s.pushH2d b).putEng (s.eng.afterTx b)) := by
  simp [byteStep, hg, hb]

/-- A receive phase takes the head of `d2h`. -/
theorem byteStep_receive {s : State} {b : Byte} {rest : List Byte} (hg : s.eng.ph.group = .receive)
    (hd : s.d2h = b :: rest) : byteStep s = .next ((s.putD2h rest).putEng (s.eng.afterRx b)) := by
  simp [byteStep, hg, hd]

/-! ### Time -/

/-- Everything a time unit can do (40_transport R128, 60_exceptions R288). -/
theorem tick_cases {s s' : State} (h : tick s = .next s') :
    (s.eng.ph = .idle ∧ s' = s) ∨
    (s.eng.ph ≠ .idle ∧ s.eng.due = false ∧ s' = countUnit s) ∨
    (s.eng.ph ≠ .idle ∧ s.eng.due = true ∧ byteEnabled s = false ∧ s' = expire (countUnit s)) ∨
    (s.eng.ph ≠ .idle ∧ s.eng.due = true ∧ byteEnabled s = true ∧ ∃ s1, byteStep s = .next s1 ∧
      s' = if s1.eng.ph.group = s.eng.ph.group then expire (countUnit s1) else s1) := by
  unfold tick at h
  split_ifs at h with h1 h2 h3
  · exact .inl ⟨h1, (Host.Outcome.next.inj h).symm⟩
  · split at h
    · rename_i s1 hs
      exact .inr (.inr (.inr ⟨h1, h2, h3, s1, hs, (Host.Outcome.next.inj h).symm⟩))
    · cases h
    · cases h
  · exact .inr (.inr (.inl ⟨h1, h2, by simpa using h3, (Host.Outcome.next.inj h).symm⟩))
  · exact .inr (.inl ⟨h1, by simpa using h2, (Host.Outcome.next.inj h).symm⟩)

theorem tick_ne_refused (s : State) (r : Refusal) : tick s ≠ .refused r := by
  unfold tick
  split_ifs
  · simp
  · split
    · simp
    · simp
    · rename_i hr
      exact absurd hr (byteStep_ne_refused _ _)
  · simp
  · simp

theorem tick_fault {s : State} {f : Fault} (h : tick s = .fault f) : f = .txbufUnwritten := by
  unfold tick at h
  split_ifs at h
  split at h
  · cases h
  · rename_i hf
    cases h
    exact (byteStep_fault hf).1
  · cases h

/-! ### The device -/

/-- Everything the responder's step can do (46_device R254). -/
theorem deviceStep_cases {s s' : State} (h : deviceStep s = .next s') :
    (deviceEnabled s = false ∧ s' = s) ∨
    (s.peer = .reference ∧ ∃ i payload rest d r, decodeFrame s.h2d = .ok (i, payload, rest) ∧
      s.dev.respond i payload = some (d, r) ∧ s' = { s with h2d := rest, d2h := s.d2h ++ r, dev := d }) := by
  unfold deviceStep at h
  split_ifs at h with hp
  · split at h
    · rename_i i payload rest hd
      split at h
      · rename_i d r hr
        exact .inr ⟨hp, i, payload, rest, d, r, hd, hr, (Host.Outcome.next.inj h).symm⟩
      · cases h
    · rename_i e hd
      exact .inl ⟨by simp [deviceEnabled, hd], (Host.Outcome.next.inj h).symm⟩
  · exact .inl ⟨by simp [deviceEnabled, hp], (Host.Outcome.next.inj h).symm⟩

/-- Everything the responder can do with one frame (46_device R254, R266). -/
theorem respond_cases {d d' : Device} {i : Instr} {payload r : List Byte} (h : d.respond i payload = some (d', r)) :
    (Config.reject (d.frames + 1) = true ∧ i.response = .ack ∧ d' = { d with frames := d.frames + 1 } ∧
      r = [Config.nakByte]) ∨
    ((Config.reject (d.frames + 1) = false ∨ i.response ≠ .ack) ∧
      ({ d with frames := d.frames + 1 } : Device).apply i payload = some (d', r)) := by
  unfold Device.respond at h
  simp only at h
  split_ifs at h with hc
  · simp only [Bool.and_eq_true, acknowledged, decide_eq_true_eq] at hc
    simp only [Option.some.injEq, Prod.mk.injEq] at h
    exact .inl ⟨hc.1, hc.2, h.1.symm, h.2.symm⟩
  · refine .inr ⟨?_, h⟩
    simp only [Bool.and_eq_true, acknowledged, decide_eq_true_eq, not_and] at hc
    by_cases hr : Config.reject (d.frames + 1) = true
    · exact .inr (hc hr)
    · exact .inl (by simpa using hr)

theorem deviceStep_ne_refused (s : State) (r : Refusal) : deviceStep s ≠ .refused r := by
  unfold deviceStep
  split_ifs
  · split
    · split <;> simp
    · simp
  · simp

/-! ### The host port -/

/-- A value in a wider register write comes back whole (10_state R21). -/
theorem setWidth_roundtrip {w : Nat} (hw : w ≤ 32) (v : BitVec w) : (v.setWidth 32).setWidth w = v := by
  rw [BitVec.setWidth_setWidth_of_le _ hw, BitVec.setWidth_eq]

/-- The lock: a write while BUSY leaves only OVR behind (10_state R27). -/
theorem lockedWrite_busy {s : State} {f : Engine → Engine} (h : s.eng.status.busy = true) :
    lockedWrite s f = overrun s := by simp [lockedWrite, h]

theorem lockedWrite_free {s : State} {f : Engine → Engine} (h : s.eng.status.busy = false) :
    lockedWrite s f = s.putEng (f s.eng) := by simp [lockedWrite, h]

theorem lockedWrite_cases (s : State) (f : Engine → Engine) :
    (s.eng.status.busy = true ∧ lockedWrite s f = overrun s) ∨
    (s.eng.status.busy = false ∧ lockedWrite s f = s.putEng (f s.eng)) := by
  cases h : s.eng.status.busy <;> simp [lockedWrite, h]

/-- Everything a write to CTRL can do (10_state R31). -/
theorem writeCtrl_cases (s : State) (v : HostWord) :
    (s.eng.status.busy = true ∧ s.eng.isOpen = true ∧ v.getLsbD 0 = false ∧ writeCtrl s v = closeLink s) ∨
    (s.eng.status.busy = true ∧ (s.eng.isOpen = false ∨ v.getLsbD 0 = true) ∧ writeCtrl s v = overrun s) ∨
    (s.eng.status.busy = false ∧ ∃ s', writeCtrl s v = s'.putEng { s'.eng with csumEnforce := v.getLsbD 1 } ∧
      ((v.getLsbD 0 = s.eng.isOpen ∧ s' = s) ∨
        (s.eng.isOpen = false ∧ v.getLsbD 0 = true ∧ s' = openLink s) ∨
        (s.eng.isOpen = true ∧ v.getLsbD 0 = false ∧ s' = closeLink s))) := by
  unfold writeCtrl
  cases hb : s.eng.status.busy <;> cases ho : s.eng.isOpen <;> cases hv : v.getLsbD 0 <;> simp

/-- Filling TXBUF touches TXBUF and, while BUSY, OVR (10_state R27, R38). -/
theorem fillTxbuf_frame (bs : List Byte) : ∀ (k : Nat) (s : State), ∃ m o, fillTxbuf k bs s
    = s.putEng { s.eng with txbuf := m, status := { s.eng.status with ovr := o } } := by
  induction bs with
  | nil => exact fun k s => ⟨s.eng.txbuf, s.eng.status.ovr, rfl⟩
  | cons b bs ih =>
    intro k s
    obtain ⟨m, o, h⟩ := ih (k + 1) (writeTxbuf k (b.setWidth 32) s)
    refine ⟨m, o, h.trans ?_⟩
    unfold writeTxbuf lockedWrite
    split_ifs <;> rfl

/-- While no operation is in flight, filling TXBUF within its bounds stores the bytes in order (45_windower R237). -/
theorem fillTxbuf_free (bs : List Byte) : ∀ (k : Nat) (s : State), s.eng.status.busy = false →
    k + bs.length ≤ Config.bufBytes →
    fillTxbuf k bs s = s.putEng { s.eng with txbuf := s.eng.txbuf.writeAt ((span k bs.length).zip bs) } := by
  induction bs with
  | nil => intro k s _ _; rfl
  | cons b bs ih =>
    intro k s hb hl
    simp only [List.length_cons] at hl
    have hw : writeTxbuf k (b.setWidth 32) s = s.putEng { s.eng with txbuf := s.eng.txbuf.write k b } := by
      rw [writeTxbuf, if_pos (by omega), lockedWrite_free hb, setWidth_roundtrip (by omega)]
    rw [fillTxbuf, hw]
    refine (ih (k + 1) (s.putEng { s.eng with txbuf := s.eng.txbuf.write k b }) hb (by omega)).trans ?_
    simp [span, List.range'_succ, Memory.writeAt, State.putEng]

/-- A TXBUF write changes TXBUF and OVR at most (10_state R27, R38; 93 U9). -/
theorem writeTxbuf_cases (i : Nat) (v : HostWord) (s : State) :
    (Config.bufBytes ≤ i ∧ writeTxbuf i v s = s) ∨
    (i < Config.bufBytes ∧ s.eng.status.busy = true ∧ writeTxbuf i v s = overrun s) ∨
    (i < Config.bufBytes ∧ s.eng.status.busy = false ∧
      writeTxbuf i v s = s.putEng { s.eng with txbuf := s.eng.txbuf.write i (v.setWidth 8) }) := by
  unfold writeTxbuf
  split_ifs with hi
  · exact .inr ((lockedWrite_cases s _).imp (fun h => ⟨hi, h⟩) (fun h => ⟨hi, h⟩))
  · exact .inl ⟨by omega, rfl⟩

/-- A refused command changes DONE and ERR only (60_exceptions R286). -/
theorem accept_refused {e : Engine} {sel : BitVec 4} (h : e.refuses sel = true) :
    e.accept sel = { e with status := { e.status with done := true, err := .precond } } := by
  simp [Engine.accept, h, Status.refused]

/-- An accepted command (41_framer R151). -/
theorem accept_accepted {e : Engine} {sel : BitVec 4} (h : e.refuses sel = false) :
    e.accept sel =
      { e with
        cur := sel, status := e.status.accepted, txsum := 0, rxsum := 0, idx := 0, dlt := 0, ph := .txHdr } := by
  simp [Engine.accept, h]

/-- When acceptance refuses (60_exceptions R286). -/
theorem refuses_iff (e : Engine) (sel : BitVec 4) :
    e.refuses sel = true ↔
      e.isOpen = false ∨ e.status.fault = true ∨ 10 ≤ sel.toNat ∨
        ((sel = 2 ∨ sel = 3) ∧ (e.npages = 0 ∨ Config.maxPages < e.npages.toNat)) := by
  simp only [Engine.refuses, Bool.or_eq_true, Bool.and_eq_true, Bool.not_eq_true', decide_eq_true_eq, beq_iff_eq,
    or_assoc]

/-- Without a call in progress there is none to abandon. -/
theorem abandonCall_of_none {s : State} (h : s.fw = .none) : abandonCall s = s := by
  cases s
  subst h
  rfl

/-! ### Command lines -/

/-- The operand writes of a command line. -/
def operandWrites : Instr → List (HostReg × HostWord)
  | .zw n bh ah => transferWrites (n.setWidth 32) (bh.setWidth 32) (ah.setWidth 32)
  | .zr n bh ah => transferWrites (n.setWidth 32) (bh.setWidth 32) (ah.setWidth 32)
  | .br b => bankWrites (b.setWidth 32)
  | .bs b => bankWrites (b.setWidth 32)
  | .be b => bankWrites (b.setWidth 32)
  | .vv => []
  | .ns => []
  | .brr => []
  | .bes => []
  | .ber => []

/-- Every meaning is a command line over its operands and its selector (30_encoding R104). -/
theorem exec_eq_commandLine (i : Instr) (s : State) :
    exec i s = commandLine (operandWrites i) (selector i) s := by
  cases i <;> rfl

/-- A register write keeps the low bits of its value only (10_state R21). -/
theorem writeReg_low {r : HostReg} {w : Nat} (hw : w ≤ 32) (v : HostWord) (s : State)
    (hr : (r = .npages ∧ w = 8) ∨ (r = .bankhi ∧ w = 3) ∨ (r = .addrhi ∧ w = 8) ∨ (r = .bank ∧ w = 3)) :
    writeReg r ((v.setWidth w).setWidth 32) s = writeReg r v s := by
  rcases hr with ⟨rfl, rfl⟩ | ⟨rfl, rfl⟩ | ⟨rfl, rfl⟩ | ⟨rfl, rfl⟩ <;>
    simp only [writeReg, setWidth_roundtrip hw]

/-- A line with operands of any value runs as the command of its masked operands (30_encoding R104). -/
theorem runLine_eq_exec (l : Line) (s : State) : runLine l s = exec l.instr s := by
  rw [exec_eq_commandLine, runLine, commandLine, commandLine]
  congr 2
  cases l <;>
    simp [Line.writes, Line.instr, operandWrites, transferWrites, bankWrites, writeRegs, writeReg_low]

/-- The operand writes of a line while no operation is in flight. -/
theorem writeRegs_operandWrites (i : Instr) {s : State} (h : s.eng.status.busy = false) :
    writeRegs (operandWrites i) s = s.putEng (s.eng.withOperands i) := by
  have r3 : ∀ v : BitVec 3, (v.setWidth 32).setWidth 3 = v := setWidth_roundtrip (by omega)
  have r8 : ∀ v : BitVec 8, (v.setWidth 32).setWidth 8 = v := setWidth_roundtrip (by omega)
  cases i <;>
    simp [operandWrites, transferWrites, bankWrites, writeRegs, writeReg, lockedWrite, h, Engine.withOperands,
      State.putEng]

/-- The CMD write of a line while no operation is in flight. -/
theorem writeReg_cmd {s : State} (sel : BitVec 4) (h : s.eng.status.busy = false) :
    writeReg .cmd (sel.setWidth 32) s = s.putEng (s.eng.accept sel) := by
  rw [writeReg, lockedWrite_free h, setWidth_roundtrip (by omega)]

@[simp] theorem withOperands_status (e : Engine) (i : Instr) : (e.withOperands i).status = e.status := by
  cases i <;> rfl

@[simp] theorem withOperands_ph (e : Engine) (i : Instr) : (e.withOperands i).ph = e.ph := by cases i <;> rfl

@[simp] theorem withOperands_isOpen (e : Engine) (i : Instr) : (e.withOperands i).isOpen = e.isOpen := by
  cases i <;> rfl

@[simp] theorem withOperands_txbuf (e : Engine) (i : Instr) : (e.withOperands i).txbuf = e.txbuf := by
  cases i <;> rfl

/-- A command line while no operation is in flight: operands, acceptance, polling. -/
theorem exec_free (i : Instr) {s : State} (h : s.eng.status.busy = false) :
    exec i s = awaitIdle (s.putEng ((s.eng.withOperands i).accept (selector i))) := by
  rw [exec_eq_commandLine, commandLine, writeRegs_operandWrites i h, writeReg_cmd _ (by simpa using h)]
  rfl

/-- A command line while an operation is in flight: every write is dropped with OVR, and the line waits for that
operation to end (10_state R27). -/
theorem exec_busy (i : Instr) {s : State} (h : s.eng.status.busy = true) : exec i s = awaitIdle (overrun s) := by
  have key : ∀ (ws : List (HostReg × HostWord)) (t : State),
      (∀ w ∈ ws, ∀ u : State, u.eng.status.busy = true → writeReg w.1 w.2 u = overrun u) →
      t.eng.status.busy = true → (writeRegs ws t = t ∨ writeRegs ws t = overrun t) := by
    intro ws
    induction ws with
    | nil => intro t _ _; exact .inl rfl
    | cons w ws ih =>
      intro t hw ht
      obtain ⟨r, v⟩ := w
      have h1 := hw (r, v) (by simp) t ht
      simp only [writeRegs]
      rw [h1]
      rcases ih (overrun t) (fun w hm => hw w (by simp [hm])) (by simpa using ht) with h' | h'
      · exact .inr h'
      · exact .inr (h'.trans rfl)
  have hw : ∀ w ∈ operandWrites i, ∀ u : State, u.eng.status.busy = true → writeReg w.1 w.2 u = overrun u := by
    intro w hm u hu
    cases i <;> simp only [operandWrites, transferWrites, bankWrites, List.mem_cons, List.not_mem_nil, or_false] at hm
    case zw | zr => rcases hm with rfl | rfl | rfl <;> simp [writeReg, lockedWrite_busy hu]
    case br | bs | be => subst hm; simp [writeReg, lockedWrite_busy hu]
  rw [exec_eq_commandLine, commandLine]
  rcases key _ s hw h with h' | h'
  · rw [h', writeReg, lockedWrite_busy h]
  · rw [h', writeReg, lockedWrite_busy (by simpa using h)]
    rfl

/-! ### Polling -/

/-- Everything one polling step can do. -/
theorem pollStep_cases {s : State} {o : Out} (h : pollStep s = o) :
    (∃ e rest, s.agenda = .env e :: rest ∧ envStep e (s.putAgenda rest) = o) ∨
    (Quiet s ∧ autoStep s = o) := by
  unfold pollStep at h
  split at h
  · rename_i e rest ha
    exact .inl ⟨e, rest, ha, h⟩
  · rename_i hq
    exact .inr ⟨fun e rest ha => hq e rest ha, h⟩

theorem pollStep_quiet {s : State} (h : Quiet s) : pollStep s = autoStep s := by
  rcases pollStep_cases (rfl : pollStep s = pollStep s) with ⟨e, rest, ha, _⟩ | ⟨_, h'⟩
  · exact absurd ha (h e rest)
  · exact h'.symm

/-- Who moves when nothing is planned. -/
theorem autoStep_cases (s : State) :
    (byteEnabled s = true ∧ autoStep s = byteStep s) ∨
    (byteEnabled s = false ∧ deviceEnabled s = true ∧ autoStep s = deviceStep s) ∨
    (byteEnabled s = false ∧ deviceEnabled s = false ∧ autoStep s = tick s) := by
  unfold autoStep
  cases h1 : byteEnabled s <;> cases h2 : deviceEnabled s <;> simp

theorem poll_idle (n : Nat) {s : State} (h : s.eng.ph = .idle) : poll n s = .next s := by
  cases n <;> simp [poll, h]

theorem poll_step (n : Nat) {s s' : State} (h : s.eng.ph ≠ .idle) (hs : pollStep s = .next s') :
    poll (n + 1) s = poll n s' := by simp [poll, h, hs]

theorem poll_fault (n : Nat) {s : State} {f : Fault} (h : s.eng.ph ≠ .idle) (hs : pollStep s = .fault f) :
    poll (n + 1) s = .fault f := by simp [poll, h, hs]

/-- What every polling step keeps, the whole wait keeps. -/
theorem poll_keeps {P : State → Prop}
    (hstep : ∀ s s', P s → s.eng.ph ≠ .idle → pollStep s = .next s' → P s') :
    ∀ n s s', P s → poll n s = .next s' → P s' := by
  intro n
  induction n with
  | zero =>
    intro s s' hP h
    obtain rfl := Host.Outcome.next.inj h
    exact hP
  | succ n ih =>
    intro s s' hP h
    unfold poll at h
    split_ifs at h with hi
    · obtain rfl := Host.Outcome.next.inj h
      exact hP
    · split at h
      · rename_i s1 hs
        exact ih s1 s' (hstep s s1 hP hi hs) h
      · cases h
      · cases h

/-- A property of both ends of a step, kept by every polling step, holds of the whole wait. -/
theorem poll_relates {R : State → State → Prop} (hrefl : ∀ s, R s s)
    (hstep : ∀ s t u, R s t → t.eng.ph ≠ .idle → pollStep t = .next u → R s u) (n : Nat) {s s' : State}
    (h : poll n s = .next s') : R s s' :=
  poll_keeps (P := R s) (fun t u hP hi hs => hstep s t u hP hi hs) n s s' (hrefl s) h

/-! ### Elements of a firmware call -/

/-- When a command counts as completed for its element (45_windower R223). -/
theorem commandOk_iff (s s' : State) :
    commandOk s s' = true ↔
      s.eng.status.busy = false ∧ s'.eng.status.done = true ∧ s'.eng.status.err = .none := by
  simp [commandOk, and_assoc]

/-- Everything the next element of a `read_range` can do (45_windower R225, R226). -/
theorem nextRead_cases {start stop block a : Nat} {s t : State} (h : nextRead start stop block a s = .next t) :
    ∃ s', exec (readBlockAt start stop block a).command s = .next s' ∧
      ((commandOk s s' = false ∧ t = fwFail s') ∨
        (commandOk s s' = true ∧ ∃ bytes,
          s'.eng.rxbuf.readAt (span (readBlockAt start stop block a).leadTrim
            ((readBlockAt start stop block a).size - (readBlockAt start stop block a).tailTrim
              - (readBlockAt start stop block a).leadTrim)) = some bytes ∧
          t = fwYield (.chunk bytes)
            (if a + block < alignedEnd stop then .reading start stop block (a + block) else .none) s')) := by
  unfold nextRead at h
  simp only at h
  split at h
  · rename_i s' hs
    refine ⟨s', hs, ?_⟩
    cases hc : commandOk s s'
    · rw [hc, if_neg (by decide)] at h
      exact .inl ⟨rfl, (Host.Outcome.next.inj h).symm⟩
    · rw [hc, if_pos rfl] at h
      split at h
      · rename_i bytes hb
        exact .inr ⟨rfl, bytes, hb, (Host.Outcome.next.inj h).symm⟩
      · cases h
  · cases h
  · cases h

/-- Everything the next element of a `write_range` can do (45_windower R225, R237). -/
theorem nextWrite_cases {data : List Byte} {start block off : Nat} {s t : State}
    (h : nextWrite data start block off s = .next t) :
    ∃ s', exec (sliceCommand (start + off) (sliceLen data.length block off))
        (fillTxbuf 0 ((data.drop off).take (sliceLen data.length block off)) s) = .next s' ∧
      ((commandOk s s' = false ∧ t = fwFail s') ∨
        (commandOk s s' = true ∧
          t = fwYield (.count (sliceLen data.length block off))
            (if off + block < data.length then .writing data start block (off + block) else .none) s')) := by
  have hbusy : ∀ s', commandOk (fillTxbuf 0 ((data.drop off).take (sliceLen data.length block off)) s) s'
      = commandOk s s' := by
    intro s'
    obtain ⟨m, o, hf⟩ := fillTxbuf_frame ((data.drop off).take (sliceLen data.length block off)) 0 s
    rw [hf]
    rfl
  unfold nextWrite at h
  simp only [hbusy] at h
  split at h
  · rename_i s' hs
    refine ⟨s', hs, ?_⟩
    cases hc : commandOk s s'
    · rw [hc, if_neg (by decide)] at h
      exact .inl ⟨rfl, (Host.Outcome.next.inj h).symm⟩
    · rw [hc, if_pos rfl] at h
      exact .inr ⟨rfl, (Host.Outcome.next.inj h).symm⟩
  · cases h
  · cases h

end Sys2Proof.Machine
end

