-- ==== Sys2Proof/Laws/PerInstr.lean ====
section
/-! SUPPORT. Statements made instruction by instruction: every header is of its row of spec/opcode_table.json, and is
read back. -/

namespace Sys2Proof.Laws

/-- A row of spec/opcode_table.json: the header's length in bytes, and its mask and match with byte 0 leftmost. -/
structure Row where
  bytes : Nat
  mask : Nat
  pattern : Nat

/-- The row of each command. -/
def rowOf : Instr → Row
  | .vv => { bytes := 2, mask := 0xFFFF, pattern := 0x5656 }
  | .ns => { bytes := 2, mask := 0xFFFF, pattern := 0x4E53 }
  | .zw _ _ _ => { bytes := 5, mask := 0xFFFF00F800, pattern := 0x5A57000000 }
  | .zr _ _ _ => { bytes := 5, mask := 0xFFFF00F800, pattern := 0x5A52000000 }
  | .br _ => { bytes := 3, mask := 0xFFFFF8, pattern := 0x425200 }
  | .brr => { bytes := 3, mask := 0xFFFFFF, pattern := 0x425252 }
  | .bs _ => { bytes := 3, mask := 0xFFFFF8, pattern := 0x425300 }
  | .be _ => { bytes := 3, mask := 0xFFFFF8, pattern := 0x424500 }
  | .bes => { bytes := 3, mask := 0xFFFFFF, pattern := 0x424553 }
  | .ber => { bytes := 3, mask := 0xFFFFFF, pattern := 0x424552 }

/-- A header under the row's mask: each byte with the mask's byte at its place. -/
def masked (r : Row) (header : List Byte) : List Byte :=
  List.zipWith (fun b m => b &&& m) header (tableBytes (8 * r.bytes) r.mask)

theorem bank_masked (b : Bank) : byteOfBank b &&& 0xF8 = 0 := by
  revert b
  decide

namespace EncodeShape

/-- The header a command sends has its row's length and, under its row's mask, its row's pattern. -/
def Statement (i : Instr) : Prop :=
  (encode i).length = (rowOf i).bytes ∧
    masked (rowOf i) (encode i) = tableBytes (8 * (rowOf i).bytes) (rowOf i).pattern

theorem vv : Statement .vv := ⟨rfl, by decide⟩

theorem ns : Statement .ns := ⟨rfl, by decide⟩

theorem zw (n : Byte) (bh : Bank) (ah : Byte) : Statement (.zw n bh ah) := by
  refine ⟨rfl, ?_⟩
  have h := bank_masked bh
  simp_all [masked, rowOf, encode, tableBytes, List.range_succ]

theorem zr (n : Byte) (bh : Bank) (ah : Byte) : Statement (.zr n bh ah) := by
  refine ⟨rfl, ?_⟩
  have h := bank_masked bh
  simp_all [masked, rowOf, encode, tableBytes, List.range_succ]

theorem br (b : Bank) : Statement (.br b) := by
  refine ⟨rfl, ?_⟩
  revert b
  decide

theorem brr : Statement .brr := ⟨rfl, by decide⟩

theorem bs (b : Bank) : Statement (.bs b) := by
  refine ⟨rfl, ?_⟩
  revert b
  decide

theorem be (b : Bank) : Statement (.be b) := by
  refine ⟨rfl, ?_⟩
  revert b
  decide

theorem bes : Statement .bes := ⟨rfl, by decide⟩

theorem ber : Statement .ber := ⟨rfl, by decide⟩

end EncodeShape

end Sys2Proof.Laws
end

