-- ==== Sys2Proof/Laws/Run.lean ====
section
/-! SUPPORT. How a command line runs: its frame is sent whole, and then its response is taken or the wait ends. -/

namespace Sys2Proof.Machine
open Sys2Proof

/-- The engine once the last header byte has been sent and TXSUM is `ts` (41_framer R152). -/
def Engine.hdrSent (e : Engine) (ts : Byte) : Engine :=
  if 0 < e.plen then { e with txsum := ts, ph := .txPay, idx := 0 }
  else if e.checksummed then { e with txsum := ts, ph := .txCsum, idx := 0 }
  else { e with txsum := ts, idx := 0, dlt := 0, ph := e.rxPhase }

theorem hdr_eq {e : Engine} {i : Instr} (h : e.command = some i) : e.hdr = encode i := by simp [Engine.hdr, h]
theorem plen_eq {e : Engine} {i : Instr} (h : e.command = some i) : e.plen = i.payloadLen := by simp [Engine.plen, h]
theorem checksummed_eq {e : Engine} {i : Instr} (h : e.command = some i) : e.checksummed = i.checksummed := by
  simp [Engine.checksummed, h]

theorem payloadLen_le (i : Instr) : i.payloadLen ≤ 65280 := by
  cases i <;> simp [Instr.payloadLen]
  omega

theorem encode_length (i : Instr) : 2 ≤ (encode i).length ∧ (encode i).length ≤ 5 := by cases i <;> simp [encode]

/-- A polling step in a transmit phase sends a byte. -/
theorem pollStep_transmit {s : State} {b : Byte} (hq : Quiet s) (hg : s.eng.ph.group = .transmit)
    (hb : s.eng.txByte = some b) : pollStep s = .next ((s.pushH2d b).putEng (s.eng.afterTx b)) := by
  rw [pollStep_quiet hq, autoStep, if_pos (by simp [byteEnabled, hg]), byteStep_transmit hg hb]

/-- A polling step in a receive phase takes the head of `d2h`. -/
theorem pollStep_receive {s : State} {b : Byte} {rest : List Byte} (hq : Quiet s) (hg : s.eng.ph.group = .receive)
    (hd : s.d2h = b :: rest) : pollStep s = .next ((s.putD2h rest).putEng (s.eng.afterRx b)) := by
  rw [pollStep_quiet hq, autoStep, if_pos (by simp [byteEnabled, hg, hd]), byteStep_receive hg hd]

/-- A receive phase in which a byte waits takes it. -/
theorem poll_receive (n : Nat) {s : State} {b : Byte} {rest : List Byte} (hq : Quiet s)
    (hg : s.eng.ph.group = .receive) (hd : s.d2h = b :: rest) :
    poll (n + 1) s = poll n ((s.putD2h rest).putEng (s.eng.afterRx b)) :=
  poll_step n (by intro h; simp [h, Phase.group] at hg) (pollStep_receive hq hg hd)

/-- A transmit phase sends its byte. -/
theorem poll_transmit (n : Nat) {s : State} {b : Byte} (hq : Quiet s) (hg : s.eng.ph.group = .transmit)
    (hb : s.eng.txByte = some b) : poll (n + 1) s = poll n ((s.pushH2d b).putEng (s.eng.afterTx b)) :=
  poll_step n (by intro h; simp [h, Phase.group] at hg) (pollStep_transmit hq hg hb)

/-- IDX and DLT count without wrapping below 65535. -/
theorem succ_toNat {k : Nat} (i : BitVec 16) (hi : i.toNat = k) (hk : k + 1 < 65536) : (i + 1).toNat = k + 1 := by
  have : (1 : BitVec 16).toNat = 1 := rfl
  rw [BitVec.toNat_add, this, hi]; omega

/-- Polling from header byte `k` on sends the rest of the header. -/
theorem poll_hdr (n : Nat) {i : Instr} : ∀ (m k : Nat) (s : State), Quiet s → s.eng.command = some i →
    s.eng.ph = .txHdr → s.eng.idx.toNat = k → k + (m + 1) = (encode i).length →
    poll (n + (m + 1)) s = poll n { s with
      h2d := s.h2d ++ (encode i).drop k, eng := s.eng.hdrSent (s.eng.txsum + sum8 ((encode i).drop k)) } := by
  intro m
  induction m with
  | zero =>
    intro k s hq hc hph hk hm
    have hl := encode_length i
    have hkl : k < (encode i).length := by omega
    have hb : s.eng.txByte = some ((encode i)[k]) := by
      simp [Engine.txByte, hph, hdr_eq hc, hk, hkl]
    have hd : (encode i).drop k = [(encode i)[k]] := by
      rw [List.drop_eq_getElem_cons hkl, List.drop_eq_nil_of_le (by omega)]
    rw [show n + (0 + 1) = n + 1 by rfl, poll_transmit n hq (by simp [hph, Phase.group]) hb]
    congr 1
    rw [hd]
    simp only [Engine.afterTx, hph, Engine.afterHdr, hdr_eq hc, hk, show ¬ (k + 1 < (encode i).length) by omega,
      if_false,
      Engine.hdrSent, sum8_cons, sum8_nil, add_zero]
    split_ifs <;> rfl
  | succ m ih =>
    intro k s hq hc hph hk hm
    have hl := encode_length i
    have hkl : k < (encode i).length := by omega
    have hb : s.eng.txByte = some ((encode i)[k]) := by
      simp [Engine.txByte, hph, hdr_eq hc, hk, hkl]
    rw [show n + (m + 1 + 1) = (n + (m + 1)) + 1 by omega, poll_transmit _ hq (by simp [hph, Phase.group]) hb]
    have hst : s.eng.afterTx ((encode i)[k])
        = { s.eng with txsum := s.eng.txsum + (encode i)[k], idx := s.eng.idx + 1 } := by
      simp only [Engine.afterTx, hph, Engine.afterHdr, hdr_eq hc, hk, show (k + 1 < (encode i).length) by omega,
        if_true]
      simp [Engine.moveTo, Engine.summedTx, hph]
    rw [hst, ih (k + 1) ((s.pushH2d _).putEng { s.eng with txsum := _, idx := s.eng.idx + 1 }) hq hc hph
      (succ_toNat _ hk (by omega)) (by omega)]
    congr 1
    conv_rhs => rw [List.drop_eq_getElem_cons hkl]
    simp only [State.putEng, State.pushH2d, sum8_cons, BitVec.add_assoc, List.append_assoc, List.singleton_append]
    rfl

/-- Polling from payload byte `k` on sends the rest of the payload. -/
theorem poll_pay (n : Nat) {i : Instr} : ∀ (p : List Byte) (k : Nat) (s : State), Quiet s → s.eng.command = some i →
    s.eng.ph = .txPay → s.eng.idx.toNat = k → p ≠ [] → k + p.length = i.payloadLen →
    s.eng.txbuf.readAt (span k p.length) = some p →
    poll (n + p.length) s = poll n { s with
      h2d := s.h2d ++ p, eng := { s.eng with txsum := s.eng.txsum + sum8 p, ph := .txCsum, idx := 0 } } := by
  intro p
  induction p with
  | nil => intro k s _ _ _ _ h; exact absurd rfl h
  | cons b p ih =>
    intro k s hq hc hph hk _ hl hr
    have hpl := payloadLen_le i
    simp only [List.length_cons] at hl hr
    rw [span, List.range'_succ, readAt_cons] at hr
    obtain ⟨b', hb', hr⟩ := Option.bind_eq_some_iff.1 hr
    obtain ⟨p', hp', hr⟩ := Option.map_eq_some_iff.1 hr
    obtain ⟨rfl, rfl⟩ := List.cons.inj hr
    have hb : s.eng.txByte = some b' := by simp [Engine.txByte, hph, hk, hb']
    rw [List.length_cons, ← Nat.add_assoc, poll_transmit _ hq (by simp [hph, Phase.group]) hb]
    rcases eq_or_ne p' [] with rfl | hp
    · congr 1
      simp only [Engine.afterTx, hph, Engine.afterPay, plen_eq hc, hk, State.putEng, State.pushH2d,
        show ¬ (k + 1 < i.payloadLen) by simp at hl; omega, if_false]
      simp [Engine.moveTo, Engine.summedTx]
    · have hpos := List.length_pos_of_ne_nil hp
      have hst : s.eng.afterTx b' = { s.eng with txsum := s.eng.txsum + b', idx := s.eng.idx + 1 } := by
        simp only [Engine.afterTx, hph, Engine.afterPay, plen_eq hc, hk, show k + 1 < i.payloadLen by omega, if_true]
        simp [Engine.moveTo, Engine.summedTx, hph]
      rw [hst, ih (k + 1) ((s.pushH2d _).putEng { s.eng with txsum := _, idx := s.eng.idx + 1 }) hq hc hph
        (succ_toNat _ hk (by omega)) hp (by omega) hp']
      congr 1
      simp [State.putEng, State.pushH2d, BitVec.add_assoc]

/-- The state when the request frame of the command in flight has been sent. -/
def frameSent (s : State) (i : Instr) (p : List Byte) : State :=
  { s with
    h2d := s.h2d ++ frameOf i p
    eng := { s.eng with txsum := sum8 (encode i ++ p), idx := 0, dlt := 0, ph := s.eng.rxPhase } }

theorem sum8_append (s t : List Byte) : sum8 (s ++ t) = sum8 s + sum8 t := by
  induction s with
  | nil => simp
  | cons a s ih => simp [ih, BitVec.add_assoc]

/-- Polling from acceptance on sends the whole request frame (41_framer R152 to R155). -/
theorem poll_frame (n : Nat) {i : Instr} {s : State} {p : List Byte} (hq : Quiet s) (hc : s.eng.command = some i)
    (hph : s.eng.ph = .txHdr) (hidx : s.eng.idx = 0) (hts : s.eng.txsum = 0)
    (hp : s.eng.payload i.payloadLen = some p) :
    poll (n + (frameOf i p).length) s = poll n (frameSent s i p) := by
  have hl := encode_length i
  obtain ⟨m, hm⟩ : ∃ m, (encode i).length = m + 1 := ⟨(encode i).length - 1, by omega⟩
  have hpl : p.length = i.payloadLen := by rw [Engine.payload] at hp; simpa [span] using readAt_length hp
  have hlen : (frameOf i p).length = (if i.checksummed then 1 else 0) + p.length + (m + 1) := by
    rw [frameOf_eq]; split_ifs <;> simp <;> omega
  have hh := poll_hdr (n + ((if i.checksummed then 1 else 0) + p.length)) m 0 s hq hc hph (by simp [hidx]) (by omega)
  rw [hlen, ← Nat.add_assoc, hh]
  simp only [List.drop_zero, hts, zero_add, Engine.hdrSent, plen_eq hc, checksummed_eq hc]
  have hcs : ∀ (t : State), Quiet t → t.eng.ph = .txCsum → poll (n + 1) t = poll n { t with
      h2d := t.h2d ++ [t.eng.txsum], eng := { t.eng with idx := 0, dlt := 0, ph := t.eng.rxPhase } } := by
    intro t ht htp
    rw [poll_step n (by simp [htp]) (pollStep_transmit (b := t.eng.txsum) ht (by simp [htp, Phase.group])
      (by simp [Engine.txByte, htp]))]
    congr 1
    simp only [Engine.afterTx, htp, Engine.enterRx, State.putEng, State.pushH2d]
  by_cases hpay : 0 < i.payloadLen
  · have hck : i.checksummed = true := by cases i <;> simp_all [Instr.payloadLen, Instr.checksummed]
    have hne : p ≠ [] := by rintro rfl; simp at hpl; omega
    simp only [hck, if_true, if_pos hpay]
    rw [← Nat.add_assoc, poll_pay (i := i) (n + 1) p 0, hcs]
    · congr 1
      simp only [frameSent, frameOf_eq, hck, if_true, sum8_append, List.append_assoc]
      rfl
    · exact hq
    · rfl
    · exact hq
    · exact hc
    · rfl
    · rfl
    · exact hne
    · omega
    · rw [hpl]; exact hp
  · have hnil : p = [] := List.length_eq_zero_iff.1 (by omega)
    subst hnil
    simp only [if_neg hpay]
    by_cases hck : i.checksummed = true
    · simp only [hck, if_true, List.length_nil, Nat.add_zero]
      rw [hcs]
      · congr 1
        simp only [frameSent, frameOf_eq, hck, if_true, List.append_nil, List.append_assoc]
        rfl
      · exact hq
      · rfl
    · simp [hck, frameSent, frameOf_eq]

/-! ### From the command line to the response -/

/-- The phase a response begins in (41_framer R155). -/
def Response.phase : Response → Phase
  | .raw3 => .rxRaw
  | .payc _ => .rxPay
  | .ack => .rxAck
  | .byte => .rxByte

/-- The state when the request frame of `i` has been sent and its response has not begun. -/
def responding (s : State) (i : Instr) (p : List Byte) : State :=
  { s with h2d := s.h2d ++ frameOf i p, eng := { s.eng.sent i p with ph := Response.phase i.response } }

theorem command_withOperands (e : Engine) (i : Instr) (st : Status) (a b d : Byte) (x y : BitVec 16) (p : Phase) :
    ({ e.withOperands i with
        cur := selector i, status := st, txsum := a, rxsum := b, rxcs := d, idx := x, dlt := y, ph := p } : Engine).command
      = some i := by
  cases i <;> rfl

theorem rxPhase_of_command {e : Engine} {i : Instr} (h : e.command = some i) :
    e.rxPhase = Response.phase i.response := by
  unfold Engine.rxPhase
  rw [h]
  cases i <;> rfl

theorem rlen_of_command {e : Engine} {i : Instr} (h : e.command = some i) :
    e.rlen = (match i.response with | .payc m => m | _ => 0) := by
  cases i <;> simp [Engine.rlen, h, Instr.response]

/-- A well-formed command on an open, sound, idle block is accepted (41_framer R151). -/
theorem not_refuses {e : Engine} {i : Instr} (ho : e.isOpen = true) (hf : e.status.fault = false)
    (hw : i.wellFormed = true) : (e.withOperands i).refuses (selector i) = false := by
  rw [← Bool.not_eq_true, refuses_iff]
  rintro (h | h | h | ⟨h, h'⟩)
  · simp [ho] at h
  · simp [hf] at h
  · cases i <;> simp [selector] at h
  · cases i <;> simp [selector] at h
    all_goals
      simp only [Instr.wellFormed] at hw
      have := (legalPages_iff _).1 hw
      simp only [Engine.withOperands] at h'
      rcases h' with rfl | h'
      · simp at this
      · omega

theorem frameOf_length (i : Instr) (p : List Byte) : (frameOf i p).length ≤ p.length + 6 := by
  have := encode_length i
  rw [frameOf_eq]
  split_ifs <;> simp <;> omega

/-- A command line on a block at rest: it is accepted and its whole frame is sent; what is left of the wait begins at
the response. -/
theorem exec_ready {i : Instr} {s : State} {p : List Byte} (hr : Ready s) (hq : Quiet s) (hw : i.wellFormed = true)
    (hp : HasPayload i p s) : ∃ n, 300000 ≤ n ∧ exec i s = poll n (responding s i p) := by
  obtain ⟨ho, hph, hb, hf⟩ := hr
  rw [exec_free i hb, accept_accepted (not_refuses ho hf hw), awaitIdle]
  have hl : p.length = i.payloadLen := by
    have := readAt_length hp
    simpa [span] using this
  have hpl := payloadLen_le i
  have hfl := frameOf_length i p
  set t := s.putEng { s.eng.withOperands i with
    cur := selector i, status := (s.eng.withOperands i).status.accepted, txsum := 0, rxsum := 0, idx := 0, dlt := 0
    ph := .txHdr } with ht
  have hcmd : t.eng.command = some i := command_withOperands _ _ _ _ _ _ _ _ _
  have hpay : t.eng.payload i.payloadLen = some p := by
    have : t.eng.txbuf = s.eng.txbuf := by simp [ht, State.putEng]
    rw [Engine.payload, this]; exact hp
  refine ⟨pollLimit t - (frameOf i p).length, ?_, ?_⟩
  · simp only [pollLimit]; omega
  have := poll_frame (pollLimit t - (frameOf i p).length) (i := i) (s := t) (p := p) hq hcmd rfl rfl rfl hpay
  rw [Nat.sub_add_cancel (by simp only [pollLimit]; omega)] at this
  rw [this]
  congr 1
  have hrx := rxPhase_of_command hcmd
  simp only [frameSent, hrx]
  simp only [responding, Engine.sent, ht, State.putEng, withOperands_status]

/-! ### The response -/

/-- The engine once it has stored payload bytes `p` of a checksummed response, the first of them byte `k`. -/
def Engine.stored (e : Engine) (k : Nat) (p : List Byte) : Engine :=
  if e.cur = 1 then { e with res := setResults e.res k p }
  else { e with rxbuf := e.rxbuf.writeAt ((span k p.length).zip p) }

/-- Polling takes payload bytes of a checksummed response from byte `k` on (41_framer R159). -/
theorem poll_payload (n : Nat) {i : Instr} : ∀ (p : List Byte) (k : Nat) (s : State) (rest : List Byte), Quiet s →
    s.eng.command = some i → s.eng.ph = .rxPay → s.eng.idx = BitVec.ofNat 16 k → k + p.length ≤ s.eng.rlen →
    s.eng.rlen ≤ 65280 →
    s.d2h = p ++ rest → p ≠ [] →
    poll (n + p.length) s = poll n { s with
      d2h := rest
      eng := { s.eng.stored k p with
        rxsum := s.eng.rxsum + sum8 p, idx := BitVec.ofNat 16 (k + p.length)
        ph := if k + p.length = s.eng.rlen then .rxCsum else .rxPay } } := by
  intro p
  induction p with
  | nil => intro k s rest _ _ _ _ _ _ _ h; exact absurd rfl h
  | cons b p ih =>
    intro k s rest hq hc hph hk hle hrl hd _
    simp only [List.length_cons] at hle
    have hk' : s.eng.idx.toNat = k := by rw [hk]; simp; omega
    have hk1 : s.eng.idx + 1 = BitVec.ofNat 16 (k + 1) := by
      apply BitVec.eq_of_toNat_eq
      rw [succ_toNat _ hk' (by omega)]; simp; omega
    have hk1' : (BitVec.ofNat 16 (k + 1)).toNat = k + 1 := by simp; omega
    have hst : s.eng.afterRx b = { s.eng.stored k [b] with
        rxsum := s.eng.rxsum + b, idx := BitVec.ofNat 16 (k + 1)
        ph := if k + 1 = s.eng.rlen then .rxCsum else .rxPay } := by
      simp only [Engine.afterRx, hph, Engine.afterPayload, Engine.moveTo, Engine.summedRx, Engine.storePay,
        Engine.stored, hk1, hk1']
      split_ifs <;> simp [Engine.setRes, setResults, span, hk', Memory.writeAt]
    rw [List.length_cons, ← Nat.add_assoc, poll_receive _ hq (by simp [hph, Phase.group]) hd, hst]
    rcases eq_or_ne p [] with rfl | hp
    · simp [State.putEng, State.putD2h]
    · have hpos := List.length_pos_of_ne_nil hp
      have hcmd : ({ s.eng.stored k [b] with
        rxsum := s.eng.rxsum + b, idx := BitVec.ofNat 16 (k + 1)
        ph := if k + 1 = s.eng.rlen then .rxCsum else .rxPay } : Engine).command = some i := by
        rw [← hc]; unfold Engine.stored; split_ifs <;> rfl
      have hrl' : ({ s.eng.stored k [b] with
        rxsum := s.eng.rxsum + b, idx := BitVec.ofNat 16 (k + 1)
        ph := if k + 1 = s.eng.rlen then .rxCsum else .rxPay } : Engine).rlen = s.eng.rlen := by
        rw [rlen_of_command hcmd, rlen_of_command hc]
      have h2 := ih (k + 1) ((s.putD2h (p ++ rest)).putEng { s.eng.stored k [b] with
        rxsum := s.eng.rxsum + b, idx := BitVec.ofNat 16 (k + 1)
        ph := if k + 1 = s.eng.rlen then .rxCsum else .rxPay }) rest hq hcmd (by simp; omega) rfl
        (by rw [putEng_eng, hrl']; omega) (by rw [putEng_eng, hrl']; omega) rfl hp
      refine h2.trans ?_
      congr 1
      simp only [putEng_eng, hrl']
      simp only [State.putEng, State.putD2h]
      have e1 : k + 1 + p.length = k + (p.length + 1) := by omega
      simp only [e1, sum8_cons, ← BitVec.add_assoc]
      by_cases hc1 : s.eng.cur = 1
      · simp only [Engine.stored, if_pos hc1, setResults]
      · simp only [Engine.stored, if_neg hc1, List.length_cons, List.length_nil, span, List.range'_succ, Memory.writeAt,
          List.zip_cons_cons, List.range'_zero, List.zip_nil_right]

/-- A wait during which nothing can be received counts time units until the deadline (40_transport R128). -/
theorem poll_silent : ∀ (m n : Nat) (s : State), Quiet s → s.eng.ph.group = .receive → s.d2h = [] →
    deviceEnabled s = false → s.eng.dlt.toNat < max s.eng.deadline.toNat 1 →
    max s.eng.deadline.toNat 1 = s.eng.dlt.toNat + (m + 1) → m < n →
    poll n s = .next { s with
      eng := { s.eng with
        dlt := if s.eng.deadline = 0 then 1 else s.eng.deadline, ph := .idle, status := s.eng.status.raised .ioRead } } := by
  intro m
  induction m with
  | zero =>
    intro n s hq hg hd hdev hlt hm hn
    obtain ⟨n, rfl⟩ : ∃ k, n = k + 1 := ⟨n - 1, by omega⟩
    have hne : s.eng.ph ≠ .idle := by intro h; simp [h, Phase.group] at hg
    have hdl := s.eng.deadline.isLt
    have h1 := succ_toNat s.eng.dlt rfl (by omega)
    have hnb : byteEnabled s = false := by simp [byteEnabled, hg, hd]
    have hs : pollStep s = .next (expire (countUnit s)) := by
      rw [pollStep_quiet hq, autoStep, if_neg (by simp [hnb]), if_neg (by simp [hdev]), tick, if_neg hne,
        if_pos (by simp only [Engine.due, decide_eq_true_eq]; omega), if_neg (by simp [hnb])]
    rw [poll_step _ hne hs, poll_idle _ rfl]
    have hdlt : s.eng.dlt + 1 = if s.eng.deadline = 0 then 1 else s.eng.deadline := by
      apply BitVec.eq_of_toNat_eq
      rw [h1]
      split_ifs with h0
      · simp [h0] at hm ⊢; omega
      · have : s.eng.deadline.toNat ≠ 0 := fun h => h0 (BitVec.eq_of_toNat_eq (by simpa using h))
        omega
    rw [← hdlt]
    simp [expire, countUnit, State.putEng, Engine.raiseErr, hg, Group.expiry]
  | succ m ih =>
    intro n s hq hg hd hdev hlt hm hn
    obtain ⟨n, rfl⟩ : ∃ k, n = k + 1 := ⟨n - 1, by omega⟩
    have hne : s.eng.ph ≠ .idle := by intro h; simp [h, Phase.group] at hg
    have hdl := s.eng.deadline.isLt
    have h1 := succ_toNat s.eng.dlt rfl (by omega)
    have hnb : byteEnabled s = false := by simp [byteEnabled, hg, hd]
    have hs : pollStep s = .next (countUnit s) := by
      rw [pollStep_quiet hq, autoStep, if_neg (by simp [hnb]), if_neg (by simp [hdev]), tick, if_neg hne,
        if_neg (by simp only [Engine.due, decide_eq_true_eq]; omega)]
    rw [poll_step _ hne hs, ih n (countUnit s) hq hg hd hdev (by simp only [countUnit, putEng_eng]; omega)
      (by simp only [countUnit, putEng_eng]; omega) (by omega)]
    rfl

end Sys2Proof.Machine
end

