-- ==== Sys2Proof/Tests/Slice0.lean ====
section
/-! SUPPORT. Tests. Expected values are those of 95_test_vectors.md (the vector's id is in the comment) or are written
out from the rule named. Then, for each statement with hypotheses, states and operands that meet them. -/

namespace Sys2Proof.Tests

open Sys2Proof.Machine

/-! ### Well-formedness: each check refuses an ill-formed command -/

theorem test_wellFormed_zw_no_pages : (Instr.zw 0 0 0).wellFormed = false := by decide

theorem test_wellFormed_zr_no_pages : (Instr.zr 0 7 0xFF).wellFormed = false := by decide

theorem test_wellFormed_zw_too_many (n : Byte) (h : Config.maxPages < n.toNat) : (Instr.zw n 0 0).wellFormed = false := by
  have : ¬ legalPages n = true := by rw [legalPages_iff]; omega
  simpa [Instr.wellFormed] using this

theorem test_wellFormed_zr_too_many (n : Byte) (h : Config.maxPages < n.toNat) : (Instr.zr n 0 0).wellFormed = false := by
  have : ¬ legalPages n = true := by rw [legalPages_iff]; omega
  simpa [Instr.wellFormed] using this

theorem test_wellFormed_sixteen_pages : (Instr.zr 16 7 0xFF).wellFormed = true :=
  (legalPages_iff 16).2 ⟨by decide, maxPages_ge⟩

/-! ### Decoding: the header of each command, written out from 30_encoding R95 and R99 -/

theorem test_decode_vv : decodeTableWord 16 0x5656 = some .vv := by decide
theorem test_decode_ns : decodeTableWord 16 0x4E53 = some .ns := by decide
theorem test_decode_zw : decodeTableWord 40 0x5A571007E0 = some (.zw 0x10 7 0xE0) := by decide
theorem test_decode_zr : decodeTableWord 40 0x5A525400AC = some (.zr 0x54 0 0xAC) := by decide
theorem test_decode_br : decodeTableWord 24 0x425205 = some (.br 5) := by decide
theorem test_decode_brr : decodeTableWord 24 0x425252 = some .brr := by decide
theorem test_decode_bs : decodeTableWord 24 0x425303 = some (.bs 3) := by decide
theorem test_decode_be : decodeTableWord 24 0x424507 = some (.be 7) := by decide
theorem test_decode_bes : decodeTableWord 24 0x424553 = some .bes := by decide
theorem test_decode_ber : decodeTableWord 24 0x424552 = some .ber := by decide

/-- A bank byte above 7 that is no fixed letter (30_encoding R103). -/
theorem test_decode_bank_too_large : decode [0x42, 0x53, 0x52] = .error .bankTooLarge := by decide

theorem test_decode_unknown_code : decode [0x5A, 0x5A, 0] = .error .unknownCode := by decide
theorem test_decode_truncated : decode [0x5A, 0x57, 1, 7] = .error .truncated := by decide
theorem test_decode_trailing : decode [0x56, 0x56, 0] = .error .trailingBytes := by decide

/-- A whole frame at the head of a queue, and the same with a wrong checksum (46_device R265). -/
theorem test_decodeFrame_brr : decodeFrame [0x42, 0x52, 0x52, 0xE6, 0x56] = .ok (.brr, [], [0x56]) := by decide

theorem test_decodeFrame_bad_checksum : decodeFrame [0x42, 0x52, 0x52, 0xE7] = .error .badChecksum := by decide
theorem test_decodeFrame_no_pages : decodeFrame [0x5A, 0x52, 0, 0, 0, 0xAC] = .error .pageCountZero := by decide

/-! ### Checksums and frames (95, K-6 to K-8, F-2, F-12, F-15, set-bank table) -/

theorem test_sum8_wraps : sum8 [0xFF, 0xFF, 0x02] = 0 := by decide
theorem test_sum8_serial : sum8 [0x01, 0xDE, 0xAD, 0xBE, 0xEF, 0x00, 0x11, 0x22, 0x33] = 0x9F := by decide
theorem test_frame_ns : frameOf .ns [] = [0x4E, 0x53, 0xA1] := by decide
theorem test_frame_zr : frameOf (.zr 1 1 0x23) [] = [0x5A, 0x52, 0x01, 0x01, 0x23, 0xD1] := by decide
theorem test_frame_zr_most : frameOf (.zr 255 7 0xFF) [] = [0x5A, 0x52, 0xFF, 0x07, 0xFF, 0xB1] := by decide
theorem test_frame_be : frameOf (.be 4) [] = [0x42, 0x45, 0x04, 0x8B] := by decide

/-! ### One step on a small state -/

/-- The block open and at rest, the unconstrained peer attached, `q` on its way to the engine. -/
def answered (q : List Byte) : State := { State.reset with eng := { Engine.reset with isOpen := true }, d2h := q }

/-- The same under CSUM_ENFORCE. -/
def strict (q : List Byte) : State :=
  { answered q with eng := { Engine.reset with isOpen := true, csumEnforce := true } }

/-- What a next state satisfies. -/
def gives (o : Out) (p : State → Bool) : Bool :=
  match o with
  | .next t => p t
  | .fault _ => false
  | .refused _ => false

/-- I-1. -/
theorem test_vv : gives (exec .vv (answered [0x01, 0x14, 0x41])) (fun t =>
    t.eng.res.toList.take 3 == [0x01, 0x14, 0x41] && t.eng.status.word == 0x02 && t.h2d == [0x56, 0x56]) = true := by
  decide

/-- I-3: three bytes are expected and two come. -/
theorem test_vv_truncated : gives (exec .vv (answered [0x01, 0x14])) (fun t =>
    t.eng.status.word == 0x46 && t.eng.idx == 2) = true := by
  decide

/-- I-6. -/
theorem test_ns_mismatch : gives (exec .ns (answered [0x01, 0xDE, 0xAD, 0xBE, 0xEF, 0x00, 0x11, 0x22, 0x33, 0x9E]))
    (fun t => t.eng.res[8] == 0x33 && t.eng.rxsum == 0x9F && t.eng.rxcs == 0x9E && t.eng.status.word == 0x0A)
    = true := by
  decide

/-- I-7. -/
theorem test_ns_enforced : gives (exec .ns (strict [0x01, 0xDE, 0xAD, 0xBE, 0xEF, 0x00, 0x11, 0x22, 0x33, 0x9E]))
    (fun t => t.eng.status.word == 0x8E && t.eng.idx == 9) = true := by
  decide

/-- A-3. -/
theorem test_zw_no_pages : gives (exec (.zw 0 1 0x23) (answered [])) (fun t =>
    t.eng.status.word == 0xA2 && t.eng.addrhi == 0x23 && t.h2d == []) = true := by
  decide

/-- The last payload byte of `ZW` is sent and summed, and the checksum comes next (41_framer R153). -/
theorem test_zw_last_payload_byte : gives (byteStep { answered [] with eng := { Engine.reset with
      isOpen := true, cur := 2, npages := 1, ph := .txPay, idx := 255, txsum := 0xF0, txbuf := [(255, 0x11)] } })
    (fun t => t.h2d == [0x11] && t.eng.txsum == 0x01 && t.eng.ph == .txCsum && t.eng.idx == 0) = true := by
  decide

/-- A-2. -/
theorem test_zr_no_pages : gives (exec (.zr 0 0 0) (answered [])) (fun t => t.eng.status.word == 0xA2) = true := by
  decide

/-- The last payload byte of `ZR` goes to RXBUF, and the checksum comes next (41_framer R159). -/
theorem test_zr_last_payload_byte : gives (byteStep { answered [0x07] with eng := { Engine.reset with
      isOpen := true, cur := 3, npages := 1, ph := .rxPay, idx := 255, rxsum := 0xFF } })
    (fun t => t.eng.rxbuf.read 255 == some 0x07 && t.eng.rxsum == 0x06 && t.eng.ph == .rxCsum && t.eng.idx == 256)
    = true := by
  decide

/-- The frame of B-1, against a peer that stays silent. -/
theorem test_br_silent : gives (exec (.br 5) (answered [])) (fun t =>
    t.h2d == [0x42, 0x52, 0x05, 0x99] && t.eng.bank == 5 && t.eng.status.word == 0x46 && t.eng.dlt == 5) = true := by
  decide

/-- B-4: the reply is not masked. -/
theorem test_brr_unmasked : gives (exec .brr (answered [0xFF, 0x05])) (fun t =>
    t.eng.res[0] == 0xFF && t.eng.status.word == 0x02 && t.d2h == [0x05] && t.eng.bank == 0) = true := by
  decide

/-- The frame of B-5. -/
theorem test_bs_silent : gives (exec (.bs 3) (answered [])) (fun t => t.h2d == [0x42, 0x53, 0x03, 0x98]) = true := by
  decide

/-- The frame of B-6. -/
theorem test_be_silent : gives (exec (.be 7) (answered [])) (fun t => t.h2d == [0x42, 0x45, 0x07, 0x8E]) = true := by
  decide

/-- B-7. -/
theorem test_bes : gives (exec .bes (answered [0x03])) (fun t =>
    t.eng.res[0] == 0x03 && t.h2d == [0x42, 0x45, 0x53, 0xDA]) = true := by
  decide

/-- B-8. -/
theorem test_ber : gives (exec .ber (answered [0x07])) (fun t =>
    t.eng.res[0] == 0x07 && t.h2d == [0x42, 0x45, 0x52, 0xD9]) = true := by
  decide

/-- 10_state R43: no byte of any memory has a value after reset, the canonical form. -/
theorem test_reset_memories : State.reset.memoriesOk = true := rfl

/-- A-1, by a fetched table word: over a closed link nothing is sent. -/
theorem test_step_fetches : gives (step (State.reset.withFetchWord 16 0x5656)) (fun t =>
    t.eng.status.word == 0xA2 && t.h2d == [] && t.agenda == []) = true := by
  decide

/-- A-6: only the low four bits of CMD count. -/
theorem test_cmd_reserved : (writeNo 0 0x1F (answered [])).eng.status.word = 0xA2 := by decide

/-- P1: `BR 8` stores 0 in BANK and sends `42 52 00 94` (here to a silent peer). -/
theorem test_br_wide : gives (hostStep (.line (.br 8)) (answered [])) (fun t =>
    t.eng.bank == 0 && t.h2d == [0x42, 0x52, 0x00, 0x94]) = true := by
  decide

/-- 45_windower R226: a call without a block size has 4096. -/
theorem test_default_block : blockOrDefault none = 4096 := rfl

/-- 10_state R21: a write to buffer port A keeps its low 8 bits. -/
theorem test_txbuf_wide : (writeTxbuf 0 0xFFFFFF5A (answered [])).eng.txbuf = [(0, 0x5A)] := by
  have := bufBytes_ge
  rw [writeTxbuf, if_pos (by omega)]
  rfl

/-- 70_reset R334, R341: after CLOSE and OPEN a firmware call is not resumed. -/
theorem test_close_aborts_the_call : gives (nextElement (hostOpen (hostClose
    { answered [] with fw := .reading 0 1000 256 256, fwOut := [.count 0] }))) (fun t =>
    t.fw == .none && t.fwEnd == .aborted && t.h2d == [] && t.fwOut == [.count 0]) = true := by
  decide

/-- G-9. -/
theorem test_locked_write : (writeNo 1 2 { State.reset with eng := { Engine.reset with
      npages := 1, status := { Status.reset with busy := true } } }).eng.npages = 1 := by
  decide

/-- G-11. -/
theorem test_ctrl_while_busy : (readReg .ctrl (writeNo 5 3 { answered [] with eng := { Engine.reset with
      isOpen := true, ph := .rxByte, cur := 5, status := { Status.reset with busy := true } } })).readData = 1 := by
  decide

/-- L-5: CLOSE while a `ZR` receives. -/
theorem test_close_drops : (hostClose { answered [] with eng := { Engine.reset with
      isOpen := true, cur := 3, npages := 1, ph := .rxPay, idx := 100
      status := { Status.reset with busy := true, ovr := true } } }).eng.status.word = 0x10 := by
  decide

/-- M-4: `tx_fail` in the payload phase. -/
theorem test_txFail : (txFail { answered [] with eng := { Engine.reset with
      isOpen := true, cur := 2, npages := 1, ph := .txPay, idx := 10
      status := { Status.reset with busy := true } } }).eng.status.word = 0x26 := by
  decide

/-- W-2, W-9. -/
theorem test_readPlan_misaligned : readPlan 10 20 0x1000
    = [{ addr := 0, size := 256, leadTrim := 10, tailTrim := 235 }] := by decide

theorem test_readPlan_two_blocks : readPlan 0x100 0x1234 0x1000
    = [{ addr := 0x100, size := 4096, leadTrim := 0, tailTrim := 0 },
      { addr := 0x1100, size := 512, leadTrim := 0, tailTrim := 203 }] := by decide

/-- W-20. -/
theorem test_writePlan : (writePlan 4608 0x7E000 0x1000).map (fun c => sliceCommand c.1 c.2)
    = [.zw 16 7 0xE0, .zw 2 7 0xF0] := by decide

/-- W-16, W-6. -/
theorem test_read_past_the_end : legalRead 0 0x80000 0x1000 = false := by decide
theorem test_write_misaligned : legalWrite 256 0x101 256 = false := by decide

/-- The rendering of I-5. -/
theorem test_renderSerial : renderSerial [0xDE, 0xAD, 0xBE, 0xEF] = ['d', 'e', 'a', 'd', 'b', 'e', 'e', 'f'] := by
  decide

/-! ### Witnesses: states and operands that meet the hypotheses of a statement, all together -/

theorem ready_answered (q : List Byte) : Ready (answered q) := ⟨rfl, rfl, rfl, rfl⟩

theorem ready_strict (q : List Byte) : Ready (strict q) := ⟨rfl, rfl, rfl, rfl⟩

theorem quiet_of_empty {s : State} (h : s.agenda = []) : Quiet s := by simp [Quiet, h]

theorem hasPayload_nil {i : Instr} (h : i.payloadLen = 0) (s : State) : HasPayload i [] s := by
  simp [HasPayload, h, Engine.payload, span]

theorem exists_of_gives {o : Out} {p : State → Bool} (h : gives o p = true) : ∃ t, o = .next t ∧ p t = true := by
  cases o with
  | next t => exact ⟨t, rfl, h⟩
  | fault f => cases h
  | refused r => cases h

/-- A memory whose first `n` bytes are 0. -/
def zeros : Nat → Memory
  | 0 => []
  | n + 1 => (zeros n).write n 0

theorem readAt_zeros (n : Nat) : (zeros n).readAt (span 0 n) = some (List.replicate n 0) := by
  induction n with
  | zero => rfl
  | succ n ih => rw [zeros, readAt_span_write _ _ _ ih, ← List.replicate_succ']

/-- The block at rest with `256*k` bytes 0 in TXBUF. -/
def filled (q : List Byte) (k : Nat) : State :=
  { answered q with eng := { Engine.reset with isOpen := true, txbuf := zeros (256 * k) } }

theorem hasPayload_filled (q : List Byte) (n : Byte) (bh : Bank) (ah : Byte) :
    HasPayload (.zw n bh ah) (List.replicate (256 * n.toNat) 0) (filled q n.toNat) := readAt_zeros _

theorem sum8_zeros (n : Nat) : sum8 (List.replicate n 0) = 0 := by
  induction n with
  | zero => rfl
  | succ n ih => rw [List.replicate_succ, sum8_cons, ih]; rfl

theorem length_page (b : Byte) : (List.replicate 256 b).length = 256 * (1 : Byte).toNat := by
  rw [List.length_replicate]
  rfl

theorem legal_one : legalPages 1 = true := (legalPages_iff 1).2 ⟨by decide, Nat.le_trans (by decide) maxPages_ge⟩

/-- The block while it waits for the one reply byte of `BRR`. -/
def waiting (q : List Byte) : State :=
  { answered q with eng := { Engine.reset with
      isOpen := true, cur := 5, ph := .rxByte, status := { Status.reset with busy := true }, txsum := 0xE6 } }

/-- 45_windower R223 (log 20): the end of a `BRR` in flight is not the end of the `ZR` that was dropped. -/
theorem test_element_while_busy : gives (nextElement { waiting [7] with fw := .reading 0 255 256 0 }) (fun t =>
    t.fwOut == [] && t.fwEnd == .aborted && t.eng.status.word == 0x12 && t.h2d == [])
    = true := by
  decide

theorem inv_answered (q : List Byte) : Inv (answered q) := by
  refine ⟨⟨?_, ?_, ?_, ?_, ?_, ?_, ?_, ?_, ?_, ?_, Nat.zero_le _, ?_, trivial, trivial, rfl, rfl⟩, rfl⟩ <;>
    simp [answered, Engine.reset, Status.reset, ErrKind.linkFatal, Engine.phaseOk]

theorem inv_waiting (q : List Byte) : Inv (waiting q) := by
  refine ⟨⟨?_, ?_, ?_, ?_, ?_, ?_, ?_, ?_, ?_, rfl, Nat.zero_le _, ?_, trivial, trivial, rfl, rfl⟩, rfl⟩ <;>
    simp [waiting, Engine.reset, Status.reset, ErrKind.linkFatal, Config.deadlineDefault]

theorem witness_DecodedHeaderIsEncoding : decodeHeader [0x42, 0x52, 0x52, 0xE6] = .ok (.brr, [0xE6]) := by decide

theorem witness_FrameDecodeInvertsBuild :
    (Instr.zr 1 7 0xFF).pages ≠ some 0 ∧ ([] : List Byte).length = (Instr.zr 1 7 0xFF).payloadLen := by decide

theorem witness_DecodedFrameIsBuilt : decodeFrame [0x4E, 0x53, 0xA1, 0x56] = .ok (.ns, [], [0x56]) := by decide

theorem witness_FramePrefixIsNotAFrame : ([] : List Byte).length = Instr.ns.payloadLen ∧
    2 < (frameOf .ns []).length ∧ Instr.ns.pages ≠ some 0 := by decide

theorem witness_WrittenBanksWrapInTheFrame : (answered []).eng.status.busy = false := rfl

theorem witness_StepRunsTheDecodedCommand_line :
    ({ answered [] with agenda := [.host (.line (.br 8))] } : State).agenda = .host (.line (.br 8)) :: [] := rfl

theorem witness_StepRunsTheDecodedCommand :
    ({ answered [] with agenda := [.host (.command [0x42, 0x52, 0x07])] } : State).agenda
      = .host (.command [0x42, 0x52, 0x07]) :: [] ∧ decode [0x42, 0x52, 0x07] = .ok (.br 7) := by decide

theorem witness_CommandWriteAcceptance_busy : (waiting []).eng.status.busy = true := rfl

theorem witness_CommandWriteAcceptance_refused : (answered []).eng.status.busy = false ∧
    (10 ≤ (0x1A : HostWord).toNat % 16) ∧ (3 : HostWord).toNat % 16 = 3 ∧ (answered []).eng.npages = 0 := by decide

theorem witness_CommandWriteAcceptance_accepted : ∃ s : State, s.eng.status.busy = false ∧ s.eng.isOpen = true ∧
    s.eng.status.fault = false ∧ (0x13 : HostWord).toNat % 16 < 10 ∧
    s.eng.npages ≠ 0 ∧ s.eng.npages.toNat = Config.maxPages := by
  have h := maxPages_le
  have h' := maxPages_ge
  refine ⟨{ answered [] with eng := { Engine.reset with isOpen := true, npages := BitVec.ofNat 8 Config.maxPages } },
    rfl, rfl, rfl, by decide, ?_, ?_⟩
  · intro h0
    have := congrArg BitVec.toNat h0
    simp at this
    omega
  · simp
    omega

theorem witness_LockedWritesAreDropped : (waiting []).eng.status.busy = true ∧
    Config.bufBytes - 1 < Config.bufBytes ∧ (3 : HostWord).getLsbD 0 = true := by
  have := bufBytes_ge
  exact ⟨rfl, by omega, rfl⟩

theorem witness_RegistersReadBackMasked : (answered []).eng.status.busy = false ∧
    ((6 : Nat) = 6 ∨ 8 ≤ 6 ∧ 6 ≤ 19) ∧ ((19 : Nat) = 6 ∨ 8 ≤ 19 ∧ 19 ≤ 19) ∧ ((8 : Nat) = 6 ∨ 8 ≤ 8 ∧ 8 ≤ 19) := by
  decide

/-- The last index of each buffer, holding a byte. -/
theorem witness_RegistersReadBackMasked_buffers : ∃ s : State, Config.bufBytes - 1 < Config.bufBytes ∧
    s.eng.txbuf.read (Config.bufBytes - 1) = some 7 ∧ s.eng.status.busy = false ∧
    s.eng.rxbuf.read (Config.bufBytes - 1) = some 9 := by
  have := bufBytes_ge
  exact ⟨{ answered [] with eng := { Engine.reset with
      isOpen := true, txbuf := [(Config.bufBytes - 1, 7)], rxbuf := [(Config.bufBytes - 1, 9)] } },
    by omega, by simp [Memory.read], rfl, by simp [Memory.read]⟩

theorem witness_TxbufReadsAsWritten : (answered []).eng.status.busy = false ∧
    Config.bufBytes - 1 < Config.bufBytes ∧ Config.bufBytes ≤ Config.bufBytes := by
  have := bufBytes_ge
  exact ⟨rfl, by omega, Nat.le_refl _⟩

theorem witness_ReadsWithoutAValueAreFree : 20 ≤ 20 ∧ (waiting []).eng.status.busy = true ∧ 8 < 9 ∧
    Config.bufBytes ≤ Config.bufBytes := ⟨by decide, rfl, by decide, Nat.le_refl _⟩

theorem witness_OpenClearsTheFlags : State.reset.eng.isOpen = false ∧ State.reset.eng.ph = .idle ∧
    State.reset.eng.status.busy = false ∧ (1 : HostWord).getLsbD 0 = true := by decide

theorem witness_CloseDropsTheOperation_inFlight : (waiting []).eng.Ok ∧ (waiting []).eng.isOpen = true ∧
    (2 : HostWord).getLsbD 0 = false ∧ (waiting []).eng.status.busy = true := ⟨(inv_waiting []).eng, rfl, rfl, rfl⟩

theorem witness_CloseDropsTheOperation_idle : (answered []).eng.Ok ∧ (answered []).eng.isOpen = true ∧
    (2 : HostWord).getLsbD 0 = false ∧ (answered []).eng.status.busy = false :=
  ⟨(inv_answered []).eng, rfl, rfl, rfl⟩

theorem witness_CloseDropsTheOperation_sameOpen : (answered []).eng.Ok ∧
    (3 : HostWord).getLsbD 0 = (answered []).eng.isOpen ∧ (answered []).eng.status.busy = false :=
  ⟨(inv_answered []).eng, rfl, rfl⟩

theorem witness_ResetInputClearsTheBlock : ∃ t, envStep .reset (waiting [7]) = .next t := ⟨_, rfl⟩

theorem witness_VvStoresThreeRawBytes : Ready (answered [1, 2, 3]) ∧ Quiet (answered [1, 2, 3]) ∧
    (answered [1, 2, 3]).d2h = 1 :: 2 :: 3 :: [] := ⟨ready_answered _, quiet_of_empty rfl, rfl⟩

theorem witness_NsStoresTheSerialPayload : ∃ p : List Byte, Ready (answered (p ++ [1])) ∧ Quiet (answered (p ++ [1])) ∧
    p.length = 9 ∧ (answered (p ++ [1])).d2h = p ++ 1 :: [] ∧
    ((1 : Byte) = sum8 p ∨ (answered (p ++ [1])).eng.csumEnforce = false) :=
  ⟨List.replicate 9 0, ready_answered _, quiet_of_empty rfl, by decide, rfl, .inr rfl⟩

theorem witness_ZwSendsThePages : Ready (filled [Config.ackByte] 1) ∧ Quiet (filled [Config.ackByte] 1) ∧
    legalPages 1 = true ∧ HasPayload (.zw 1 7 0xFF) (List.replicate 256 0) (filled [Config.ackByte] 1) ∧
    (filled [Config.ackByte] 1).d2h = Config.ackByte :: [] :=
  ⟨⟨rfl, rfl, rfl, rfl⟩, quiet_of_empty rfl, legal_one, hasPayload_filled _ 1 _ _, rfl⟩

theorem witness_ZrStoresThePages : ∃ p : List Byte, Ready (strict (p ++ [0])) ∧ Quiet (strict (p ++ [0])) ∧
    legalPages 1 = true ∧ p.length = 256 * (1 : Byte).toNat ∧ (strict (p ++ [0])).d2h = p ++ 0 :: [] ∧
    ((0 : Byte) = sum8 p ∨ (strict (p ++ [0])).eng.csumEnforce = false) :=
  ⟨List.replicate 256 0, ready_strict _, quiet_of_empty rfl, legal_one, length_page 0, rfl,
    .inl (sum8_zeros 256).symm⟩

theorem witness_SetBankCommandsComplete : Ready (answered [Config.ackByte]) ∧ Quiet (answered [Config.ackByte]) ∧
    (answered [Config.ackByte]).d2h = Config.ackByte :: [] := ⟨ready_answered _, quiet_of_empty rfl, rfl⟩

theorem witness_GetBankCommandsStoreTheReply : Ready (answered [0xFF]) ∧ Quiet (answered [0xFF]) ∧
    (answered [0xFF]).d2h = 0xFF :: [] := ⟨ready_answered _, quiet_of_empty rfl, rfl⟩

theorem witness_RefusedCommandsSendNothing_closed : State.reset.eng.status.busy = false ∧
    State.reset.eng.ph = .idle ∧ State.reset.eng.isOpen = false := by decide

theorem witness_RefusedCommandsSendNothing_illFormed : (answered []).eng.status.busy = false ∧
    (answered []).eng.ph = .idle ∧ (Instr.zr 0 0 0).wellFormed = false := by decide

theorem witness_BusyLineOnlyWaits : (waiting []).eng.status.busy = true := rfl

theorem witness_WrongAcknowledgementIsNak : Ready (answered [Config.nakByte]) ∧ Quiet (answered [Config.nakByte]) ∧
    (Instr.br 5).response = .ack ∧ (Instr.br 5).wellFormed = true ∧ HasPayload (.br 5) [] (answered [Config.nakByte]) ∧
    (answered [Config.nakByte]).d2h = Config.nakByte :: [] ∧ Config.nakByte ≠ Config.ackByte :=
  ⟨ready_answered _, quiet_of_empty rfl, rfl, rfl, hasPayload_nil rfl _, rfl, nakByte_ne_ackByte⟩

theorem witness_EnforcedMismatchIsCsumError_ns : ∃ p : List Byte, Ready (strict (p ++ [1])) ∧
    Quiet (strict (p ++ [1])) ∧ (strict (p ++ [1])).eng.csumEnforce = true ∧ (1 : Byte) ≠ sum8 p ∧
    (strict (p ++ [1])).d2h = p ++ 1 :: [] ∧ p.length = 9 :=
  ⟨List.replicate 9 0, ready_strict _, quiet_of_empty rfl, rfl, by decide, rfl, by decide⟩

theorem witness_EnforcedMismatchIsCsumError_zr : ∃ p : List Byte, Ready (strict (p ++ [1])) ∧
    Quiet (strict (p ++ [1])) ∧ (strict (p ++ [1])).eng.csumEnforce = true ∧ (1 : Byte) ≠ sum8 p ∧
    (strict (p ++ [1])).d2h = p ++ 1 :: [] ∧ legalPages 1 = true ∧ p.length = 256 * (1 : Byte).toNat :=
  ⟨List.replicate 256 0, ready_strict _, quiet_of_empty rfl, rfl, by rw [sum8_zeros]; decide, rfl, legal_one,
    length_page 0⟩

theorem witness_SilentPeerEndsInIoRead : Ready (answered []) ∧ Silent (answered []) ∧
    (Instr.be 7).wellFormed = true ∧ HasPayload (.be 7) [] (answered []) :=
  ⟨ready_answered _, ⟨quiet_of_empty rfl, rfl, rfl⟩, rfl, hasPayload_nil rfl _⟩

theorem witness_SilentPeerEndsInIoRead_zw : Ready (filled [] 1) ∧ Silent (filled [] 1) ∧
    (Instr.zw 1 0 0).wellFormed = true ∧ HasPayload (.zw 1 0 0) (List.replicate 256 0) (filled [] 1) :=
  ⟨⟨rfl, rfl, rfl, rfl⟩, ⟨quiet_of_empty rfl, rfl, rfl⟩, legal_one, hasPayload_filled _ 1 _ _⟩

theorem witness_TruncatedReadKeepsWhatArrived : Ready (answered (List.replicate 255 7)) ∧
    Quiet (answered (List.replicate 255 7)) ∧ (answered (List.replicate 255 7)).peer = .unconstrained ∧
    legalPages 1 = true ∧ (answered (List.replicate 255 7)).d2h.length ≤ 256 * (1 : Byte).toNat :=
  ⟨ready_answered _, quiet_of_empty rfl, rfl, legal_one, by
    show (List.replicate 255 (7 : Byte)).length ≤ 256 * (1 : Byte).toNat
    rw [List.length_replicate]
    decide⟩

/-- The whole payload but no checksum byte. -/
theorem witness_TruncatedReadKeepsWhatArrived_noChecksum : Ready (answered (List.replicate 256 7)) ∧
    Quiet (answered (List.replicate 256 7)) ∧ (answered (List.replicate 256 7)).peer = .unconstrained ∧
    legalPages 1 = true ∧ (answered (List.replicate 256 7)).d2h.length ≤ 256 * (1 : Byte).toNat :=
  ⟨ready_answered _, quiet_of_empty rfl, rfl, legal_one, by
    show (List.replicate 256 (7 : Byte)).length ≤ 256 * (1 : Byte).toNat
    rw [length_page]⟩

theorem witness_TruncatedReadKeepsWhatArrived_vv : Ready (answered [1, 2]) ∧ Quiet (answered [1, 2]) ∧
    (answered [1, 2]).peer = .unconstrained ∧ (answered [1, 2]).d2h.length < 3 :=
  ⟨ready_answered _, quiet_of_empty rfl, rfl, by decide⟩

theorem witness_TruncatedReadKeepsWhatArrived_ns : ∃ p : List Byte, Ready (answered p) ∧ Quiet (answered p) ∧
    (answered p).peer = .unconstrained ∧ (answered p).d2h.length = 9 :=
  ⟨[1, 2, 3, 4, 5, 6, 7, 8, 9], ready_answered _, quiet_of_empty rfl, rfl, rfl⟩

theorem witness_TransmitFailureCutsTheFrame : ∃ s : State, Ready s ∧ Instr.ns.wellFormed = true ∧
    HasPayload .ns [] s ∧ 2 < (frameOf .ns []).length ∧
    s.agenda = List.replicate 2 (.env .engine) ++ .env .txFail :: [] :=
  ⟨{ answered [] with agenda := [.env .engine, .env .engine, .env .txFail] }, ready_answered [], rfl, rfl,
    by decide, rfl⟩

theorem witness_CloseThenOpenRecovers : (waiting [7]).eng.Ok ∧ (waiting [7]).eng.isOpen = true :=
  ⟨(inv_waiting [7]).eng, rfl⟩

theorem witness_UnwrittenPayloadStopsZw : Ready (answered []) ∧ Quiet (answered []) ∧ legalPages 1 = true ∧
    255 < 256 * (1 : Byte).toNat ∧ (answered []).eng.txbuf.read 255 = none :=
  ⟨ready_answered _, quiet_of_empty rfl, legal_one, by decide, rfl⟩

theorem witness_UncheckedReceiveSteps_enabled :
    (waiting []).eng.ph ∈ [Phase.rxAck, .rxByte, .rxRaw] := by decide

theorem witness_UncheckedReceiveSteps_ack : ∃ s : State, s.d2h = Config.ackByte :: [] ∧ s.eng.ph = .rxAck :=
  ⟨{ answered [Config.ackByte] with eng := { Engine.reset with ph := .rxAck } }, rfl, rfl⟩

theorem witness_UncheckedReceiveSteps_nak : ∃ s : State, s.d2h = Config.nakByte :: [] ∧ s.eng.ph = .rxAck ∧
    Config.nakByte ≠ Config.ackByte :=
  ⟨{ answered [Config.nakByte] with eng := { Engine.reset with ph := .rxAck } }, rfl, rfl, nakByte_ne_ackByte⟩

theorem witness_UncheckedReceiveSteps_byte : (waiting [7]).d2h = 7 :: [] ∧ (waiting [7]).eng.ph = .rxByte := by decide

theorem witness_UncheckedReceiveSteps_raw : ∃ s t : State,
    s.d2h = 7 :: [] ∧ s.eng.ph = .rxRaw ∧ s.eng.idx.toNat + 1 < 3 ∧
    t.d2h = 7 :: [] ∧ t.eng.ph = .rxRaw ∧ ¬ t.eng.idx.toNat + 1 < 3 :=
  ⟨{ answered [7] with eng := { Engine.reset with ph := .rxRaw, idx := 1 } },
    { answered [7] with eng := { Engine.reset with ph := .rxRaw, idx := 2 } }, by decide⟩

theorem witness_ByteStepsFollowTheTransitionTable : ∃ t, Inv (waiting [7]) ∧ byteEnabled (waiting [7]) = true ∧
    byteStep (waiting [7]) = .next t := ⟨_, inv_waiting _, by decide, rfl⟩

theorem witness_TimerExpiresTheReceiveGroup_counts : (waiting []).eng.ph.group = .receive ∧ (waiting []).d2h = [] ∧
    (waiting []).eng.dlt.toNat < 65535 ∧ (waiting []).eng.dlt.toNat + 1 < (waiting []).eng.deadline.toNat := by decide

/-- The same with one time unit left. -/
def lastUnit (q : List Byte) : State := { waiting q with eng := { (waiting q).eng with dlt := 4 } }

theorem witness_TimerExpiresTheReceiveGroup_expires : (lastUnit []).eng.ph.group = .receive ∧
    (lastUnit []).d2h = [] ∧ (lastUnit []).eng.dlt.toNat < 65535 ∧
    (lastUnit []).eng.deadline.toNat ≤ (lastUnit []).eng.dlt.toNat + 1 := by decide

theorem witness_TimerExpiresTheTransmitGroup_counts : ∃ s : State, s.eng.ph.group = .transmit ∧
    s.eng.dlt.toNat < 65535 ∧ s.eng.dlt.toNat + 1 < s.eng.deadline.toNat :=
  ⟨{ waiting [] with eng := { (waiting []).eng with ph := .txHdr } }, by decide⟩

/-- A header byte is sent at the deadline: the group goes on, so it expires. -/
theorem witness_TimerExpiresTheTransmitGroup_expires : ∃ s u : State, s.eng.ph.group = .transmit ∧
    s.eng.dlt.toNat < 65535 ∧ s.eng.deadline.toNat ≤ s.eng.dlt.toNat + 1 ∧ byteStep s = .next u ∧
    u.eng.ph.group = .transmit :=
  ⟨{ lastUnit [] with eng := { (lastUnit []).eng with ph := .txHdr } }, _, by decide, by decide, by decide, rfl,
    by decide⟩

/-- The checksum byte is sent at the deadline: the group has ended. -/
theorem witness_TimerExpiresTheTransmitGroup_ends : ∃ s u : State, s.eng.ph.group = .transmit ∧
    s.eng.dlt.toNat < 65535 ∧ s.eng.deadline.toNat ≤ s.eng.dlt.toNat + 1 ∧ byteStep s = .next u ∧
    u.eng.ph.group ≠ .transmit :=
  ⟨{ lastUnit [] with eng := { (lastUnit []).eng with ph := .txCsum } }, _, by decide, by decide, by decide, rfl,
    by decide⟩

/-- A raw byte of `VV` that is not the last arrives: the group goes on, with one time unit left or with five. -/
theorem witness_ByteStepBeatsTheDeadline_goesOn : ∃ s t : State, s.eng.ph.group = .receive ∧ byteStep s = .next t ∧
    byteEnabled s = true ∧ s.eng.dlt.toNat < 65535 ∧ s.eng.deadline.toNat ≤ s.eng.dlt.toNat + 1 ∧ t.eng.ph ≠ .idle :=
  ⟨{ lastUnit [7] with eng := { (lastUnit [7]).eng with cur := 0, ph := .rxRaw, idx := 1 } }, _, by decide, rfl,
    by decide, by decide, by decide, by decide⟩

theorem witness_ByteStepBeatsTheDeadline_early : ∃ t, (waiting [7]).eng.ph.group = .receive ∧
    byteStep (waiting [7]) = .next t ∧ byteEnabled (waiting [7]) = true ∧ (waiting [7]).eng.dlt.toNat < 65535 ∧
    (waiting [7]).eng.dlt.toNat + 1 < (waiting [7]).eng.deadline.toNat :=
  ⟨_, by decide, rfl, by decide, by decide, by decide⟩

theorem witness_ByteStepBeatsTheDeadline : ∃ t, (lastUnit [7]).eng.ph.group = .receive ∧
    byteStep (lastUnit [7]) = .next t ∧ byteEnabled (lastUnit [7]) = true ∧ t.eng.ph = .idle ∧
    (lastUnit [7]).eng.due = true := ⟨_, by decide, rfl, by decide, rfl, by decide⟩

theorem witness_FreeEventsExpireTheirGroup : ∃ s t : State, s.eng.ph.group = .transmit ∧
    s.eng.ph.group ≠ .receive ∧ t.eng.ph.group = .receive ∧ t.eng.ph.group ≠ .transmit :=
  ⟨{ waiting [] with eng := { Engine.reset with ph := .txCsum } }, waiting [], by decide⟩

theorem witness_StepKeepsTheInvariant : ∃ t, Inv (waiting [7]) ∧ step (waiting [7]) = .next t :=
  ⟨_, inv_waiting _, rfl⟩

theorem witness_ReachableStatesMeetTheInvariant : ∃ t, Reachable t ∧ t.eng.isOpen = true :=
  ⟨_, ⟨[.host .openLine], .reference, 1, _, rfl, rfl⟩, rfl⟩

theorem witness_EveryCommandEndsIdle : Inv (answered []) ∧ (answered []).eng.status.busy = false ∧
    (answered []).peer = .unconstrained ∧ HasPayload .vv [] (answered []) :=
  ⟨inv_answered _, rfl, rfl, hasPayload_nil rfl _⟩

theorem witness_CommandsExchangeExactlyTheirFrames : ∃ t, Inv (answered [1, 2, 3]) ∧
    (answered [1, 2, 3]).eng.status.busy = false ∧ (answered [1, 2, 3]).peer = .unconstrained ∧
    (∀ e, .env e ∈ (answered [1, 2, 3]).agenda → e.intrudes = false) ∧ HasPayload .vv [] (answered [1, 2, 3]) ∧
    exec .vv (answered [1, 2, 3]) = .next t ∧ t.eng.status.err = .none := by
  obtain ⟨t, ht, he⟩ := exists_of_gives (o := exec .vv (answered [1, 2, 3]))
    (p := fun t => decide (t.eng.status.err = .none)) (by decide)
  exact ⟨t, inv_answered _, rfl, rfl, by simp [answered, State.reset], hasPayload_nil rfl _, ht, of_decide_eq_true he⟩

theorem witness_CommandsLeaveOtherRegistersAlone : ∃ t, (answered [1, 2, 3]).eng.status.busy = false ∧
    (answered [1, 2, 3]).eng.ph = .idle ∧ (∀ e, .env e ∈ (answered [1, 2, 3]).agenda → e ≠ .reset) ∧
    exec .vv (answered [1, 2, 3]) = .next t := by
  obtain ⟨t, ht, _⟩ := exists_of_gives (o := exec .vv (answered [1, 2, 3])) (p := fun _ => true) (by decide)
  exact ⟨t, rfl, rfl, by simp [answered, State.reset], ht⟩

theorem respond_brr (d : Device) (payload : List Byte) :
    d.respond .brr payload = some ({ d with frames := d.frames + 1 }, [byteOfBank d.iobank]) := by
  simp [Device.respond, acknowledged, Instr.response, Device.apply]

/-- `BRR`, with two other reading frames between it and its repetition. -/
theorem witness_ReadingCommandsChangeNoDeviceState : ∃ d' r e, Instr.brr.response ≠ .ack ∧
    Device.initial.respond .brr [] = some (d', r) ∧
    (∀ f ∈ [(Instr.brr, ([] : List Byte)), (.brr, [])], f.1.response ≠ .ack) ∧
    d'.afterFrames [(.brr, []), (.brr, [])] = some e :=
  ⟨_, _, { Device.initial with frames := 3 }, by decide, respond_brr _ _, by decide, by
    simp [Device.afterFrames, respond_brr, Device.initial]⟩

theorem witness_WritingCommandsChangeTheirOwnState : (Instr.bs 3).response = .ack ∧ (Instr.zw 1 0 0).response = .ack :=
  ⟨rfl, rfl⟩

theorem witness_PowerCycleReloadsThePersistentBank : ∃ t, envStep .powerCycle (answered []) = .next t := ⟨_, rfl⟩

/-- The block at rest beside the reference responder. -/
def beside : State := { answered [] with peer := .reference }

theorem witness_ReferenceRunIsAnUnconstrainedRun : ∃ d r, Ready beside ∧ Quiet beside ∧ beside.peer = .reference ∧
    beside.h2d = [] ∧ beside.d2h = [] ∧ Instr.brr.wellFormed = true ∧ HasPayload .brr [] beside ∧
    beside.dev.respond .brr [] = some (d, r) :=
  ⟨_, _, ⟨rfl, rfl, rfl, rfl⟩, quiet_of_empty rfl, rfl, rfl, rfl, rfl, hasPayload_nil rfl _, respond_brr _ _⟩

theorem witness_BanksReadBackAsSet : Ready beside ∧ Quiet beside ∧ beside.peer = .reference ∧ beside.h2d = [] ∧
    beside.d2h = [] := ⟨⟨rfl, rfl, rfl, rfl⟩, quiet_of_empty rfl, rfl, rfl, rfl⟩

theorem witness_PagesReadBackAsWritten : ∃ s : State, Ready s ∧ Quiet s ∧ s.peer = .reference ∧ s.h2d = [] ∧
    s.d2h = [] ∧ legalPages 1 = true ∧ HasPayload (.zw 1 7 0xFF) (List.replicate 256 0) s :=
  ⟨{ filled [] 1 with peer := .reference }, ⟨rfl, rfl, rfl, rfl⟩, quiet_of_empty rfl, rfl, rfl, rfl, legal_one,
    hasPayload_filled [] 1 7 0xFF⟩

theorem witness_LeadPagesAreAlwaysZero : 256 ∣ 256 ∧ 256 ≤ 256 ∧ 255 ≤ 256 ∧ 1 < blockCount 255 256 256 := by decide

theorem witness_ReadPlanCoversTheRange : 256 ∣ 512 ∧ 256 ≤ 512 ∧ 5 ≤ 1000 ∧ (readPlan 5 1000 512).length = 2 := by
  decide

theorem witness_WritePlanCoversTheData : 256 ∣ 4096 ∧ 256 ≤ 4096 ∧ 256 ∣ 4608 := by decide

/-- The second and last slice, one page, of a call with one-page blocks at the top of memory. -/
theorem witness_WritePlanCoversTheData_element : ∃ (s : State) (data : List Byte), Ready s ∧ Quiet s ∧
    s.d2h = Config.ackByte :: [] ∧ 256 ≤ 256 * Config.maxPages ∧ data.length = 512 ∧ 523776 + data.length ≤ 524288 ∧
    s.fw = .writing data 523776 256 (1 * 256) ∧
    (writePlan data.length 523776 256)[1]? = some (524032, 256) := by
  obtain ⟨data, hd⟩ : ∃ data : List Byte, data.length = 512 := ⟨List.replicate 512 0, List.length_replicate⟩
  refine ⟨{ answered [Config.ackByte] with fw := .writing data 523776 256 256 }, data, ⟨rfl, rfl, rfl, rfl⟩,
    quiet_of_empty rfl, rfl, ?_, hd, by omega, rfl, ?_⟩
  · have := maxPages_ge
    omega
  · rw [hd]
    decide

theorem witness_PageAddressInvertsItsFields : 256 ∣ 0x7FF00 ∧ 0x7FF00 < Config.memBytes := by decide

/-- The violations of a `read_range` (45_windower R221, R224, R227). -/
def badRead (start stop size : Int) : Prop :=
  start < 0 ∨ stop < start ∨ 524288 ≤ stop ∨ size % 256 ≠ 0 ∨ size < 256 ∨ 256 * (Config.maxPages : Int) < size

/-- The violations of a `write_range` (45_windower R221, R224, R236). -/
def badWrite (len : Nat) (start size : Int) : Prop :=
  len % 256 ≠ 0 ∨ start < 0 ∨ start % 256 ≠ 0 ∨ 524288 < start + (len : Int) ∨ size % 256 ≠ 0 ∨ size < 256 ∨
    256 * (Config.maxPages : Int) < size

/-- Each violation at its boundary, and the calls just inside. -/
theorem witness_IllegalFirmwareCallsDoNothing_read : badRead (-1) 0 256 ∧ badRead 1 0 256 ∧ badRead 0 524288 256 ∧
    badRead 0 0 257 ∧ badRead 0 0 0 ∧ badRead 0 0 (256 * (Config.maxPages : Int) + 256) ∧ ¬ badRead 0 524287 256 := by
  have := maxPages_ge
  unfold badRead
  omega

theorem witness_IllegalFirmwareCallsDoNothing_write : badWrite 1 0 256 ∧ badWrite 0 (-256) 256 ∧ badWrite 0 1 256 ∧
    badWrite 256 524288 256 ∧ badWrite 256 0 257 ∧ badWrite 256 0 0 ∧
    badWrite 256 0 (256 * (Config.maxPages : Int) + 256) ∧ ¬ badWrite 256 524032 256 := by
  have := maxPages_ge
  unfold badWrite
  omega

theorem deviceSpan_eq_span (p n : Nat) (h : p + n ≤ Config.memBytes) : deviceSpan p n = span p n := by
  rw [deviceSpan, span, List.range'_eq_map_range]
  apply List.map_congr_left
  intro k hk
  rw [List.mem_range] at hk
  exact Nat.mod_eq_of_lt (by omega)

theorem legalRead_page : legalRead 10 20 256 = true := by
  have := bufBytes_ge
  simp only [legalRead, legalBlock, Bool.and_eq_true, decide_eq_true_eq]
  exact ⟨⟨⟨by decide, by decide⟩, by decide⟩, ⟨by decide, by decide⟩, by omega⟩

theorem witness_ReadElementYieldsDeviceBytes : ∃ (s : State) (p : List Byte), Ready s ∧ Quiet s ∧
    s.peer = .reference ∧ s.h2d = [] ∧ s.d2h = [] ∧ (Config.ioBankMode = .ignored ∨ s.dev.iobank = 0) ∧ legalRead 10 20 256 = true ∧
    0 < blockCount 10 20 256 ∧ s.fw = .reading 10 20 256 (pageFloor 10 + 0 * 256) ∧
    s.dev.mem.readAt (deviceSpan (pageFloor 10 + 0 * 256) (readBlockAt 10 20 256 (pageFloor 10 + 0 * 256)).size)
      = some p := by
  obtain ⟨m, p, hm⟩ : ∃ (m : Memory) (p : List Byte), m.readAt (span 0 256) = some p := ⟨_, _, readAt_zeros 256⟩
  refine ⟨{ beside with dev := { Device.initial with mem := m }, fw := .reading 10 20 256 0 }, p,
    ⟨rfl, rfl, rfl, rfl⟩, quiet_of_empty rfl, rfl, rfl, rfl, .inr rfl, legalRead_page, by decide, rfl, ?_⟩
  have h : deviceSpan (pageFloor 10 + 0 * 256) (readBlockAt 10 20 256 (pageFloor 10 + 0 * 256)).size = span 0 256 :=
    deviceSpan_eq_span 0 256 (by decide)
  rw [h]
  exact hm

/-- The last block of a call, and one that is not. -/
theorem witness_ReadElementYieldsDeviceBytes_goesOn :
    20 - 20 % 256 + 256 ≤ pageFloor 10 + (0 + 1) * 256 ∧ pageFloor 10 + (0 + 1) * 256 < 300 - 300 % 256 + 256 := by
  decide

/-- A `read_range` in progress over a link that has been closed: its next command is refused. -/
theorem witness_FailedWriteEndsTheCall_read : ∃ s t : State, s.fw = .reading 0 255 256 0 ∧ nextElement s = .next t ∧
    t.eng.status.err ≠ .none := by
  let s : State := { State.reset with fw := .reading 0 255 256 0 }
  obtain ⟨u, hu, he⟩ : ∃ u, exec (readBlockAt 0 255 256 0).command s = .next u ∧ u.eng.status.err = .precond := by
    rw [exec_free _ rfl, accept_refused (by rw [refuses_iff]; exact .inl (by simp [s, State.reset, Engine.reset])),
      awaitIdle, poll_idle _ (by simp [s, State.reset, Engine.reset])]
    exact ⟨_, rfl, rfl⟩
  refine ⟨s, fwFail u, rfl, ?_, by simp [fwFail, he]⟩
  have hu' : execZr (BitVec.ofNat 8 ((readBlockAt 0 255 256 0).size / 256)) (bankHighOf (readBlockAt 0 255 256 0).addr)
      (addrHighOf (readBlockAt 0 255 256 0).addr) s = .next u := hu
  show nextRead 0 255 256 0 s = _
  rw [nextRead]
  simp only [hu', commandOk, he]
  simp

/-- One asked for while a `BRR` waits for its reply. -/
theorem witness_FailedWriteEndsTheCall_busy : ∃ s t : State, s.fw = .reading 0 255 256 0 ∧ s.eng.status.busy = true ∧
    nextElement s = .next t := by
  obtain ⟨t, ht, _⟩ := exists_of_gives
    (o := nextElement { waiting [7] with fw := .reading 0 255 256 0 }) (p := fun _ => true) (by decide)
  exact ⟨_, t, rfl, rfl, ht⟩

/-- A `write_range` in progress over a link that has been closed: its next command is refused. -/
theorem witness_FailedWriteEndsTheCall : ∃ (s t : State) (data : List Byte), data.length = 256 ∧
    s.fw = .writing data 0 256 0 ∧ nextElement s = .next t ∧ t.eng.status.err ≠ .none := by
  obtain ⟨data, hd⟩ : ∃ data : List Byte, data.length = 256 := ⟨List.replicate 256 0, List.length_replicate⟩
  let s : State := { State.reset with fw := .writing data 0 256 0 }
  have key : ∀ (bs : List Byte) (n : Byte) (bh : Bank) (ah : Byte), ∃ u, execZw n bh ah (fillTxbuf 0 bs s) = .next u ∧
      u.eng.status.err = .precond := by
    intro bs n bh ah
    obtain ⟨m, o, hf⟩ := fillTxbuf_frame bs 0 s
    rw [hf, show ∀ t, execZw n bh ah t = exec (.zw n bh ah) t from fun _ => rfl, exec_free _ rfl,
      accept_refused (by rw [refuses_iff]; exact .inl rfl), awaitIdle, poll_idle _ rfl]
    exact ⟨_, rfl, rfl⟩
  obtain ⟨u, hu, he⟩ := key ((data.drop 0).take (sliceLen data.length 256 0))
    (BitVec.ofNat 8 (sliceLen data.length 256 0 / 256)) (bankHighOf (0 + 0)) (addrHighOf (0 + 0))
  refine ⟨s, fwFail u, data, hd, rfl, ?_, by simp [fwFail, he]⟩
  show nextWrite data 0 256 0 s = _
  rw [nextWrite, hu]
  simp [commandOk, he]

end Sys2Proof.Tests
end

section
/-! PROOFS. The statements of 00_scope: the checksum's value, the step that runs a command line, and the firmware
calls that are rejected. -/

namespace Sys2Proof

/-! ### The checksum -/

/-- 00_scope R14: each byte joins the sum modulo 256. -/
theorem sum8_toNat (s : List Byte) : (sum8 s).toNat = (s.map BitVec.toNat).sum % 256 := by
  induction s with
  | nil => rfl
  | cons b s ih =>
    rw [sum8_cons, BitVec.toNat_add, ih, List.map_cons, List.sum_cons]
    exact Nat.add_mod_mod _ _ _

/-- Settles O7: the sum of no bytes, and induction on the byte sequence. -/
theorem checksumIsSumModulo256 : Obligations.ChecksumIsSumModulo256 :=
  ⟨sum8_nil, sum8_toNat⟩

end Sys2Proof

namespace Sys2Proof.Machine

/-! ### The step and the command line -/

/-- Where the host moves next, the step is the host's, with its event taken off the agenda (00_scope R8, log 1). -/
theorem step_of_host {s : State} {e : HostEvent} {rest : List Event} (h : s.agenda = .host e :: rest) :
    step s = hostStep e { s with agenda := rest } := by
  rw [step, h]
  rfl

/-- A line of header bytes runs the command that the decoder reads from them (log 5). -/
theorem runCommand_of_decode {header : List Byte} {i : Instr} (h : decode header = .ok i) (s : State) :
    runCommand header s = exec i s := by
  rw [runCommand, h]

/-- Settles O10: the host's step, then the decoder for header bytes and the masking writes for a mnemonic. -/
theorem stepRunsTheDecodedCommand : Obligations.StepRunsTheDecodedCommand := by
  intro s rest
  constructor
  · intro header i hagenda hdecode
    calc step s = hostStep (.command header) { s with agenda := rest } := step_of_host hagenda
      _ = exec i { s with agenda := rest } := runCommand_of_decode hdecode _
  · intro l hagenda
    calc step s = hostStep (.line l) { s with agenda := rest } := step_of_host hagenda
      _ = exec l.instr { s with agenda := rest } := runLine_eq_exec l _

/-! ### The preconditions of the firmware calls, as inequalities -/

/-- 45_windower R226, R235: the block size of a call that gives one, and `DEFAULT_BLOCK` without. -/
@[simp] theorem blockOrDefault_some (b : Int) : blockOrDefault (some b) = b := rfl

@[simp] theorem blockOrDefault_none : blockOrDefault none = 4096 := rfl

theorem memBytes_cast : (Config.memBytes : Int) = 524288 := rfl

theorem bufBytes_cast : (Config.bufBytes : Int) = 256 * (Config.maxPages : Int) := by
  rw [Config.bufBytes, Nat.cast_mul, mul_comm]
  rfl

/-- 45_windower R221: whole pages, at least one and at most what a buffer holds. -/
theorem legalBlock_iff (size : Int) :
    legalBlock size = true ↔ size % 256 = 0 ∧ 256 ≤ size ∧ size ≤ 256 * (Config.maxPages : Int) := by
  simp only [legalBlock, bufBytes_cast, Bool.and_eq_true, decide_eq_true_eq, and_assoc]

/-- 45_windower R221, R224, R227: a `read_range` is legal exactly where none of its preconditions is violated. -/
theorem legalRead_iff (start stop size : Int) :
    legalRead start stop size = true ↔
      ¬ (start < 0 ∨ stop < start ∨ 524288 ≤ stop ∨ size % 256 ≠ 0 ∨ size < 256 ∨
        256 * (Config.maxPages : Int) < size) := by
  simp only [legalRead, legalBlock_iff, Bool.and_eq_true, decide_eq_true_eq]
  rw [memBytes_cast]
  omega

/-- 45_windower R221, R224, R236: a `write_range` is legal exactly where none of its preconditions is violated. -/
theorem legalWrite_iff (len : Nat) (start size : Int) :
    legalWrite len start size = true ↔
      ¬ (len % 256 ≠ 0 ∨ start < 0 ∨ start % 256 ≠ 0 ∨ 524288 < start + (len : Int) ∨ size % 256 ≠ 0 ∨
        size < 256 ∨ 256 * (Config.maxPages : Int) < size) := by
  simp only [legalWrite, legalBlock_iff, Bool.and_eq_true, decide_eq_true_eq]
  rw [memBytes_cast]
  omega

/-! ### What a firmware call does before its first element -/

theorem startRead_of_legal {start stop size : Int} (h : legalRead start stop size = true) (s : State) :
    startRead start stop size s = { s with
      fw := .reading start.toNat stop.toNat size.toNat (start.toNat - start.toNat % 256), fwOut := []
      fwEnd := .running } :=
  if_pos h

theorem startRead_of_not_legal {start stop size : Int} (h : ¬ legalRead start stop size = true) (s : State) :
    startRead start stop size s = { s with fw := .none, fwOut := [], fwEnd := .rejected } :=
  if_neg h

/-- A legal `write_range` of no data is finished at once (45_windower R237). -/
theorem startWrite_of_legal {data : List Byte} {start size : Int} (h : legalWrite data.length start size = true)
    (s : State) :
    startWrite data start size s = { s with
      fw := if data = [] then .none else .writing data start.toNat size.toNat 0, fwOut := []
      fwEnd := if data = [] then .finished else .running } := by
  rw [startWrite, if_pos h]
  by_cases hdata : data = []
  · simp only [if_pos hdata]
  · simp only [if_neg hdata]

theorem startWrite_of_not_legal {data : List Byte} {start size : Int}
    (h : ¬ legalWrite data.length start size = true) (s : State) :
    startWrite data start size s = { s with fw := .none, fwOut := [], fwEnd := .rejected } :=
  if_neg h

theorem hostStep_readRange (start stop : Int) (block : Option Int) (s : State) :
    hostStep (.readRange start stop block) s = .next (startRead start stop (blockOrDefault block) s) := rfl

theorem hostStep_writeRange (data : List Byte) (start : Int) (block : Option Int) (s : State) :
    hostStep (.writeRange data start block) s = .next (startWrite data start (blockOrDefault block) s) := rfl

/-- Settles O58: a violated precondition is exactly a call that is not legal, and each call answers by legality. -/
theorem illegalFirmwareCallsDoNothing : Obligations.IllegalFirmwareCallsDoNothing := by
  intro s start stop size block data hsize
  have hblock : blockOrDefault block = size := by
    cases block with
    | none => exact blockOrDefault_none.trans hsize.symm
    | some b => exact (blockOrDefault_some b).trans hsize.symm
  rw [hostStep_readRange, hostStep_writeRange, hblock]
  refine ⟨fun hbad => ?_, fun hgood => ?_, fun hbad => ?_, fun hgood => ?_⟩
  · rw [startRead_of_not_legal fun h => (legalRead_iff ..).1 h hbad]
  · rw [startRead_of_legal ((legalRead_iff ..).2 hgood)]
  · rw [startWrite_of_not_legal fun h => (legalWrite_iff ..).1 h hbad]
  · rw [startWrite_of_legal ((legalWrite_iff ..).2 hgood)]

end Sys2Proof.Machine
end

section
/-! PROOFS. The moves of the block alone (a byte sent, a byte taken, a time unit, an expiry), of which every step of an
agent other than the host is made, but for the reset input. -/

namespace Sys2Proof.Machine

/-! ### The command in flight -/

/-- 10_state R22: the command a block describes has CUR as its selector. -/
theorem cur_of_command {e : Engine} {i : Instr} (h : e.command = some i) : e.cur = selector i := by
  unfold Engine.command at h
  split at h <;> cases h <;> exact BitVec.eq_of_toNat_eq ‹_›

/-- 10_state R22: every selector that is not reserved names a command. -/
theorem exists_command {e : Engine} (h : e.cur.toNat < 10) : ∃ i, e.command = some i := by
  unfold Engine.command
  split <;> simp_all
  omega

/-- 10_state R23: a command whose page count, where it has one, is legal is well-formed. -/
theorem wellFormed_of_pages {e : Engine} {i : Instr} (hc : e.command = some i)
    (hp : e.cur = 2 ∨ e.cur = 3 → legalPages e.npages = true) : i.wellFormed = true := by
  unfold Engine.command at hc
  split at hc <;> cases hc
  case h_3 h2 => exact hp (.inl (BitVec.eq_of_toNat_eq h2))
  case h_4 h3 => exact hp (.inr (BitVec.eq_of_toNat_eq h3))
  all_goals rfl

theorem payloadLen_le_bufBytes {i : Instr} (h : i.wellFormed = true) : i.payloadLen ≤ Config.bufBytes := by
  cases i
  case zw n bh ah =>
    have hn := ((legalPages_iff n).1 h).2
    simp only [Instr.payloadLen, Config.bufBytes, Config.pageSize]
    omega
  all_goals exact Nat.zero_le _

/-- What a checksummed response of `i` holds before its checksum (41_framer R155). -/
def payloadBack (i : Instr) : Nat :=
  match i.response with
  | .payc m => m
  | _ => 0

theorem rlen_eq {e : Engine} {i : Instr} (h : e.command = some i) : e.rlen = payloadBack i := rlen_of_command h

theorem payloadBack_le_bufBytes {i : Instr} (h : i.wellFormed = true) : payloadBack i ≤ Config.bufBytes := by
  have hb := bufBytes_ge
  cases i
  case zr n bh ah =>
    have hn := ((legalPages_iff n).1 h).2
    simp only [payloadBack, Instr.response, Config.bufBytes, Config.pageSize]
    omega
  case ns =>
    simp only [payloadBack, Instr.response]
    omega
  all_goals exact Nat.zero_le _

/-- The block describes the legal command `i` and stands where that command can stand (41_framer R164 (c), (d)). -/
structure Engine.Runs (e : Engine) (i : Instr) : Prop where
  command : e.command = some i
  wellFormed : i.wellFormed = true
  phase : e.phaseOk = true

theorem Engine.Ok.runs {e : Engine} (h : e.Ok) (hph : e.ph ≠ .idle) : ∃ i, e.Runs i := by
  obtain ⟨i, hi⟩ := exists_command h.cur
  exact ⟨i, hi, wellFormed_of_pages hi (h.pages hph), h.phase⟩

/-- 10_state R28: where the operation stands, IDX is within the buffers. -/
theorem Engine.Runs.idx_le {e : Engine} {i : Instr} (h : e.Runs i) (hph : e.ph ≠ .idle) :
    e.idx.toNat ≤ Config.bufBytes := by
  have hb := bufBytes_ge
  have he := encode_length i
  have hp := payloadLen_le_bufBytes h.wellFormed
  have hr := payloadBack_le_bufBytes h.wellFormed
  have hok := h.phase
  unfold Engine.phaseOk at hok
  split at hok <;>
    simp only [hdr_eq h.command, plen_eq h.command, rlen_eq h.command, Bool.and_eq_true, decide_eq_true_eq] at hok
  case h_1 hi => exact absurd hi hph
  case h_4 | h_5 | h_6 => simp [hok.2]
  all_goals omega

/-! ### The moves of the block -/

/-- What the block can do between two host writes: everything but the reset input is made of these. -/
inductive Engine.Move : Engine → Engine → Prop
  /-- 41_framer R152 to R154: a byte of the request is sent. -/
  | send {e : Engine} (b : Byte) (hg : e.ph.group = .transmit) (hb : e.txByte = some b) : Move e (e.afterTx b)
  /-- 41_framer R156 to R160: a byte of the response is taken. -/
  | take {e : Engine} (b : Byte) (hg : e.ph.group = .receive) : Move e (e.afterRx b)
  /-- 40_transport R128: a time unit before the deadline. -/
  | count {e : Engine} (hph : e.ph ≠ .idle) (hd : e.due = false) : Move e { e with dlt := e.dlt + 1 }
  /-- 40_transport R128, R129: the group expires, at whatever the timer then holds. -/
  | expire {e : Engine} (d : BitVec 16) (hph : e.ph ≠ .idle) :
      Move e (({ e with dlt := d } : Engine).raiseErr e.ph.group.expiry)

/-- Any number of moves. -/
abbrev Engine.Moves : Engine → Engine → Prop := Relation.ReflTransGen Engine.Move

/-- What each move keeps, any number of moves keeps. -/
theorem Engine.Moves.keeps {P : Engine → Prop} (hstep : ∀ e e', Engine.Move e e' → P e → P e') {e e' : Engine}
    (h : Engine.Moves e e') (he : P e) : P e' := by
  induction h with
  | refl => exact he
  | tail _ hm ih => exact hstep _ _ hm ih

theorem ne_idle_of_transmit {p : Phase} (h : p.group = .transmit) : p ≠ .idle := by
  rintro rfl
  cases h

theorem ne_idle_of_receive {p : Phase} (h : p.group = .receive) : p ≠ .idle := by
  rintro rfl
  cases h

/-- The parts of the machine that no agent but the host touches (10_state R44; logs 17, 20, 22). -/
structure SameHostSide (s t : State) : Prop where
  fw : t.fw = s.fw
  fwOut : t.fwOut = s.fwOut
  fwEnd : t.fwEnd = s.fwEnd
  peer : t.peer = s.peer
  readData : t.readData = s.readData

theorem SameHostSide.refl (s : State) : SameHostSide s s := ⟨rfl, rfl, rfl, rfl, rfl⟩

theorem SameHostSide.trans {s t u : State} (h : SameHostSide s t) (h' : SameHostSide t u) : SameHostSide s u :=
  ⟨h'.fw.trans h.fw, h'.fwOut.trans h.fwOut, h'.fwEnd.trans h.fwEnd, h'.peer.trans h.peer,
    h'.readData.trans h.readData⟩

/-- A step of an agent other than the host, seen from the block: some moves, and nothing on the host's side or on the
plan. -/
structure MovesTo (s t : State) : Prop where
  eng : Engine.Moves s.eng t.eng
  host : SameHostSide s t
  agenda : t.agenda = s.agenda

theorem MovesTo.of_eng_eq {s t : State} (he : t.eng = s.eng) (hh : SameHostSide s t) (ha : t.agenda = s.agenda) :
    MovesTo s t :=
  ⟨he ▸ .refl, hh, ha⟩

theorem byteStep_movesTo {s t : State} (h : byteStep s = .next t) : MovesTo s t := by
  rcases byteStep_cases h with ⟨_, rfl⟩ | ⟨b, hg, hb, rfl⟩ | ⟨b, rest, hg, _, rfl⟩
  · exact ⟨.refl, .refl _, rfl⟩
  · exact ⟨.single (.send b hg hb), ⟨rfl, rfl, rfl, rfl, rfl⟩, rfl⟩
  · exact ⟨.single (.take b hg), ⟨rfl, rfl, rfl, rfl, rfl⟩, rfl⟩

theorem expire_movesTo {s : State} (h : s.eng.ph ≠ .idle) : MovesTo s (expire s) :=
  ⟨.single (.expire s.eng.dlt h), ⟨rfl, rfl, rfl, rfl, rfl⟩, rfl⟩

theorem expire_countUnit_movesTo {s : State} (h : s.eng.ph ≠ .idle) : MovesTo s (expire (countUnit s)) :=
  ⟨.single (.expire (s.eng.dlt + 1) h), ⟨rfl, rfl, rfl, rfl, rfl⟩, rfl⟩

theorem MovesTo.trans {s t u : State} (h : MovesTo s t) (h' : MovesTo t u) : MovesTo s u :=
  ⟨Relation.ReflTransGen.trans h.eng h'.eng, h.host.trans h'.host, h'.agenda.trans h.agenda⟩

theorem tick_movesTo {s t : State} (h : tick s = .next t) : MovesTo s t := by
  rcases tick_cases h with ⟨_, rfl⟩ | ⟨hph, hd, rfl⟩ | ⟨hph, _, _, rfl⟩ | ⟨hph, _, _, s1, hs1, rfl⟩
  · exact ⟨.refl, .refl _, rfl⟩
  · exact ⟨.single (.count hph hd), ⟨rfl, rfl, rfl, rfl, rfl⟩, rfl⟩
  · exact expire_countUnit_movesTo hph
  · split_ifs with hg
    · refine (byteStep_movesTo hs1).trans (expire_countUnit_movesTo fun hi => hph ?_)
      rw [← group_idle_iff, ← hg, hi]
      rfl
    · exact byteStep_movesTo hs1

theorem deviceStep_movesTo {s t : State} (h : deviceStep s = .next t) : MovesTo s t := by
  rcases deviceStep_cases h with ⟨_, rfl⟩ | ⟨_, i, payload, rest, d, r, _, _, rfl⟩
  · exact .of_eng_eq rfl (.refl _) rfl
  · exact .of_eng_eq rfl ⟨rfl, rfl, rfl, rfl, rfl⟩ rfl

/-- Every step of an agent other than the host, but the reset input, is made of the block's moves. -/
theorem envStep_movesTo {e : EnvEvent} {s t : State} (hr : e ≠ .reset) (h : envStep e s = .next t) :
    MovesTo s t := by
  cases e with
  | engine => exact byteStep_movesTo h
  | device => exact deviceStep_movesTo h
  | tick => exact tick_movesTo h
  | reset => exact absurd rfl hr
  | powerCycle =>
    cases h
    exact .of_eng_eq rfl ⟨rfl, rfl, rfl, rfl, rfl⟩ rfl
  | peerSend b =>
    cases h
    unfold peerSend
    split_ifs
    · exact .of_eng_eq rfl ⟨rfl, rfl, rfl, rfl, rfl⟩ rfl
    · exact .of_eng_eq rfl (.refl _) rfl
  | peerTake =>
    cases h
    unfold peerTake
    split_ifs
    · exact .of_eng_eq rfl ⟨rfl, rfl, rfl, rfl, rfl⟩ rfl
    · exact .of_eng_eq rfl (.refl _) rfl
  | txFail =>
    cases h
    unfold txFail
    split_ifs with hg
    · exact expire_movesTo (ne_idle_of_transmit hg)
    · exact .of_eng_eq rfl (.refl _) rfl
  | rxTimeout =>
    cases h
    unfold rxTimeout
    split_ifs with hg
    · exact expire_movesTo (ne_idle_of_receive hg)
    · exact .of_eng_eq rfl (.refl _) rfl

theorem autoStep_movesTo {s t : State} (h : autoStep s = .next t) : MovesTo s t := by
  rcases autoStep_cases s with ⟨_, ha⟩ | ⟨_, _, ha⟩ | ⟨_, _, ha⟩ <;> rw [ha] at h
  · exact byteStep_movesTo h
  · exact deviceStep_movesTo h
  · exact tick_movesTo h

end Sys2Proof.Machine
end

section
/-! PROOFS. The moves of the block stay within the operation of one command, and leave alone what that command does not
name (10_state R27, R31, R35, R38, R39). -/

namespace Sys2Proof.Machine

/-! ### What a byte step leaves of the operation's description -/

theorem afterTx_frame (e : Engine) (b : Byte) :
    ∃ ts p i d, e.afterTx b = { e with txsum := ts, ph := p, idx := i, dlt := d } := by
  unfold Engine.afterTx Engine.afterHdr Engine.afterPay
  split
  · split_ifs <;> exact ⟨_, _, _, _, rfl⟩
  · split_ifs <;> exact ⟨_, _, _, _, rfl⟩
  · exact ⟨_, _, _, _, rfl⟩
  · exact ⟨_, _, _, _, rfl⟩

theorem storePay_frame (e : Engine) (b : Byte) : ∃ r x, e.storePay b = { e with res := r, rxbuf := x } := by
  unfold Engine.storePay
  split_ifs <;> exact ⟨_, _, rfl⟩

theorem afterRx_frame (e : Engine) (b : Byte) :
    ∃ st r x rs cs p i, e.afterRx b =
      { e with status := st, res := r, rxbuf := x, rxsum := rs, rxcs := cs, ph := p, idx := i } := by
  unfold Engine.afterRx
  split
  · unfold Engine.afterAck
    split_ifs <;> exact ⟨_, _, _, _, _, _, _, rfl⟩
  · exact ⟨_, _, _, _, _, _, _, rfl⟩
  · unfold Engine.afterRaw
    split_ifs <;> exact ⟨_, _, _, _, _, _, _, rfl⟩
  · obtain ⟨r, x, h⟩ := storePay_frame e b
    rw [Engine.afterPayload, h]
    exact ⟨_, _, _, _, _, _, _, rfl⟩
  · unfold Engine.afterCsum
    split_ifs <;> exact ⟨_, _, _, _, _, _, _, rfl⟩
  · exact ⟨_, _, _, _, _, _, _, rfl⟩

@[simp] theorem afterTx_command (e : Engine) (b : Byte) : (e.afterTx b).command = e.command := by
  obtain ⟨ts, p, i, d, h⟩ := afterTx_frame e b
  rw [h]
  rfl

@[simp] theorem afterRx_command (e : Engine) (b : Byte) : (e.afterRx b).command = e.command := by
  obtain ⟨st, r, x, rs, cs, p, i, h⟩ := afterRx_frame e b
  rw [h]
  rfl

/-! ### Where the operation stands after each move -/

theorem phaseOk_of_idle {e : Engine} (h : e.ph = .idle) : e.phaseOk = true := by
  unfold Engine.phaseOk
  rw [h]

/-- 41_framer R155: the receive group begins where the response's format says. -/
theorem enterRx_phaseOk {e : Engine} {i : Instr} (hc : e.command = some i) (hw : i.wellFormed = true) :
    e.enterRx.phaseOk = true := by
  have hcur := cur_of_command hc
  unfold Engine.phaseOk
  rw [enterRx_ph, rxPhase_of_command hc, enterRx_cur, enterRx_idx, enterRx_rlen, rlen_eq hc, hcur]
  cases i
  case zr n bh ah =>
    have hn : 0 < n.toNat := ((legalPages_iff n).1 hw).1
    simpa [Instr.response, Response.phase, selector, payloadBack] using hn
  all_goals simp [Instr.response, Response.phase, selector, payloadBack]

theorem payload_of_zw {i : Instr} (h : 0 < i.payloadLen) : selector i = 2 ∧ i.checksummed = true := by
  cases i
  case zw => exact ⟨rfl, rfl⟩
  all_goals simp [Instr.payloadLen] at h

theorem afterHdr_phaseOk {e : Engine} {i : Instr} (b : Byte) (h : e.Runs i) (hph : e.ph = .txHdr) :
    (e.afterHdr b).phaseOk = true := by
  have hl := (encode_length i).2
  unfold Engine.afterHdr
  split_ifs with h1 h2 h3
  · rw [hdr_eq h.command] at h1
    simp only [Engine.phaseOk, moveTo_ph, hph, moveTo_idx, moveTo_hdr, summedTx_hdr, hdr_eq h.command,
      succ_toNat e.idx rfl (by omega), h1, decide_true]
  · rw [plen_eq h.command] at h2
    simp [Engine.phaseOk, plen_eq h.command, h2, cur_of_command h.command, (payload_of_zw h2).1]
  · simp [Engine.phaseOk, h3]
  · exact enterRx_phaseOk (e := e.summedTx b) h.command h.wellFormed

theorem afterPay_phaseOk {e : Engine} {i : Instr} (b : Byte) (h : e.Runs i) (hph : e.ph = .txPay) :
    (e.afterPay b).phaseOk = true := by
  have hpay : e.cur = 2 ∧ e.idx.toNat < e.plen := by simpa [Engine.phaseOk, hph] using h.phase
  have hl := payloadLen_le i
  have hplen := plen_eq h.command
  unfold Engine.afterPay
  split_ifs with h1
  · simp only [Engine.phaseOk, moveTo_ph, hph, moveTo_cur, summedTx_cur, hpay.1, moveTo_idx, moveTo_plen,
      summedTx_plen, succ_toNat e.idx rfl (by omega), h1, decide_true, Bool.and_self]
  · have hck := (payload_of_zw (i := i) (by omega)).2
    simp [Engine.phaseOk, checksummed_eq h.command, hck]

theorem afterTx_phaseOk {e : Engine} {i : Instr} (b : Byte) (h : e.Runs i) : (e.afterTx b).phaseOk = true := by
  unfold Engine.afterTx
  split
  · exact afterHdr_phaseOk b h ‹_›
  · exact afterPay_phaseOk b h ‹_›
  · exact enterRx_phaseOk h.command h.wellFormed
  · exact h.phase

theorem afterRaw_phaseOk {e : Engine} {i : Instr} (b : Byte) (h : e.Runs i) (hph : e.ph = .rxRaw) :
    (e.afterRaw b).phaseOk = true := by
  have hraw : e.cur = 0 ∧ e.idx.toNat < 3 := by simpa [Engine.phaseOk, hph] using h.phase
  unfold Engine.afterRaw
  split_ifs with h1
  · simp only [Engine.phaseOk, moveTo_ph, hph, moveTo_cur, setRes_cur, hraw.1, moveTo_idx,
      succ_toNat e.idx rfl (by omega), h1, decide_true, Bool.and_self]
  · exact phaseOk_of_idle rfl

/-- 41_framer R159: where IDX and PH stand after a payload byte. -/
theorem afterPayload_eq {e : Engine} {i : Instr} (b : Byte) (h : e.Runs i) (hph : e.ph = .rxPay) :
    (e.idx + 1).toNat = e.idx.toNat + 1 ∧ e.idx.toNat < payloadBack i ∧
      e.afterPayload b = ((e.storePay b).summedRx b).moveTo
        (if e.idx.toNat + 1 = payloadBack i then .rxCsum else .rxPay) (e.idx + 1) := by
  have hpay : (e.cur = 1 ∨ e.cur = 3) ∧ e.idx.toNat < e.rlen := by simpa [Engine.phaseOk, hph] using h.phase
  have hb := bufBytes_le
  have hr := payloadBack_le_bufBytes h.wellFormed
  have hrlen := rlen_eq h.command
  have hs := succ_toNat e.idx rfl (by omega)
  refine ⟨hs, by omega, ?_⟩
  rw [Engine.afterPayload, hs, hrlen, hph]

theorem storePay_command (e : Engine) (b : Byte) : (e.storePay b).command = e.command := by
  unfold Engine.storePay
  split_ifs <;> rfl

theorem afterPayload_phaseOk {e : Engine} {i : Instr} (b : Byte) (h : e.Runs i) (hph : e.ph = .rxPay) :
    (e.afterPayload b).phaseOk = true := by
  have hcur : e.cur = 1 ∨ e.cur = 3 := by
    have hok := h.phase
    simp only [Engine.phaseOk, hph, Bool.and_eq_true, decide_eq_true_eq] at hok
    exact hok.1
  obtain ⟨hs, hlt, he⟩ := afterPayload_eq b h hph
  have hc : (e.afterPayload b).command = some i := by rw [he]; exact (storePay_command e b).trans h.command
  have hcur' : (e.afterPayload b).cur = e.cur := by rw [cur_of_command hc, cur_of_command h.command]
  unfold Engine.phaseOk
  rw [rlen_eq hc, hcur', he]
  simp only [moveTo_ph, moveTo_idx, hs]
  split_ifs with h1
  · simp only [hcur, h1, decide_true, Bool.and_self]
  · simp only [hcur, decide_true, Bool.true_and, decide_eq_true_eq]
    omega

theorem afterRx_phaseOk {e : Engine} {i : Instr} (b : Byte) (h : e.Runs i) : (e.afterRx b).phaseOk = true := by
  unfold Engine.afterRx
  split
  · unfold Engine.afterAck
    split_ifs <;> exact phaseOk_of_idle rfl
  · exact phaseOk_of_idle rfl
  · exact afterRaw_phaseOk b h ‹_›
  · exact afterPayload_phaseOk b h ‹_›
  · unfold Engine.afterCsum
    split_ifs <;> exact phaseOk_of_idle rfl
  · exact h.phase

/-- Every move stays within the operation of the same command. -/
theorem Engine.Move.runs {e e' : Engine} {i : Instr} (hm : Engine.Move e e') (h : e.Runs i) : e'.Runs i := by
  cases hm with
  | send b hg hb => exact ⟨(afterTx_command e b).trans h.command, h.wellFormed, afterTx_phaseOk b h⟩
  | take b hg => exact ⟨(afterRx_command e b).trans h.command, h.wellFormed, afterRx_phaseOk b h⟩
  | count hph hd => exact ⟨h.command, h.wellFormed, h.phase⟩
  | expire d hph => exact ⟨h.command, h.wellFormed, phaseOk_of_idle rfl⟩

/-! ### What a move leaves alone -/

/-- The registers and buffers a command of `i` does not name are in `e'` as in `e` (10_state R27, R31, R35, R38,
R39). -/
structure Engine.Leaves (i : Instr) (e e' : Engine) : Prop where
  txbuf : e'.txbuf = e.txbuf
  deadline : e'.deadline = e.deadline
  isOpen : e'.isOpen = e.isOpen
  csumEnforce : e'.csumEnforce = e.csumEnforce
  ovr : e'.status.ovr = e.status.ovr
  npages : e'.npages = e.npages
  bankhi : e'.bankhi = e.bankhi
  addrhi : e'.addrhi = e.addrhi
  bank : e'.bank = e.bank
  res : ∀ k, resultCount i ≤ k → e'.res[k]? = e.res[k]?
  rxbuf : ∀ k, rxbufCount i ≤ k → e'.rxbuf.read k = e.rxbuf.read k
  rxcs : (∀ m, i.response ≠ .payc m) → e'.rxcs = e.rxcs

theorem Engine.Leaves.refl (i : Instr) (e : Engine) : Engine.Leaves i e e :=
  ⟨rfl, rfl, rfl, rfl, rfl, rfl, rfl, rfl, rfl, fun _ _ => rfl, fun _ _ => rfl, fun _ => rfl⟩

theorem Engine.Leaves.trans {i : Instr} {e f g : Engine} (h : Engine.Leaves i e f) (h' : Engine.Leaves i f g) :
    Engine.Leaves i e g where
  txbuf := h'.txbuf.trans h.txbuf
  deadline := h'.deadline.trans h.deadline
  isOpen := h'.isOpen.trans h.isOpen
  csumEnforce := h'.csumEnforce.trans h.csumEnforce
  ovr := h'.ovr.trans h.ovr
  npages := h'.npages.trans h.npages
  bankhi := h'.bankhi.trans h.bankhi
  addrhi := h'.addrhi.trans h.addrhi
  bank := h'.bank.trans h.bank
  res k hk := (h'.res k hk).trans (h.res k hk)
  rxbuf k hk := (h'.rxbuf k hk).trans (h.rxbuf k hk)
  rxcs hr := (h'.rxcs hr).trans (h.rxcs hr)

/-- A change of the registers the block keeps to itself, and of every flag but OVR. -/
theorem leaves_hidden (i : Instr) (e : Engine) (c : BitVec 4) (st : Status) (ts rs : Byte) (p : Phase)
    (x d : BitVec 16) (ho : st.ovr = e.status.ovr) :
    Engine.Leaves i e { e with cur := c, status := st, txsum := ts, rxsum := rs, ph := p, idx := x, dlt := d } :=
  ⟨rfl, rfl, rfl, rfl, ho, rfl, rfl, rfl, rfl, fun _ _ => rfl, fun _ _ => rfl, fun _ => rfl⟩

theorem leaves_complete (i : Instr) (e : Engine) : Engine.Leaves i e e.complete := leaves_hidden _ _ _ _ _ _ _ _ _ rfl

theorem leaves_raiseErr (i : Instr) (e : Engine) (k : ErrKind) : Engine.Leaves i e (e.raiseErr k) :=
  leaves_hidden _ _ _ _ _ _ _ _ _ rfl

theorem leaves_setRes {i : Instr} (e : Engine) {j : Nat} (b : Byte) (hj : j < resultCount i) :
    Engine.Leaves i e (e.setRes j b) :=
  ⟨rfl, rfl, rfl, rfl, rfl, rfl, rfl, rfl, rfl,
    fun k hk => by rw [setRes_res, Vector.getElem?_setIfInBounds_ne (by omega)], fun _ _ => rfl, fun _ => rfl⟩

theorem leaves_tookCsum {i : Instr} {m : Nat} (e : Engine) (c : Byte) (hr : i.response = .payc m) :
    Engine.Leaves i e (e.tookCsum c) :=
  ⟨rfl, rfl, rfl, rfl, rfl, rfl, rfl, rfl, rfl, fun _ _ => rfl, fun _ _ => rfl, fun h => absurd hr (h m)⟩

/-- 41_framer R163: in the phases of one reply byte and of raw bytes, how many result registers the command has. -/
theorem resultCount_of_phase {e : Engine} {i : Instr} (h : e.Runs i) :
    (e.ph = .rxAck → resultCount i = 1) ∧ (e.ph = .rxByte → resultCount i = 1) ∧
    (e.ph = .rxRaw → resultCount i = 3 ∧ e.idx.toNat < 3) := by
  have hcur := cur_of_command h.command
  have hok := h.phase
  refine ⟨fun hp => ?_, fun hp => ?_, fun hp => ?_⟩
  all_goals
    simp only [Engine.phaseOk, hp, hcur] at hok
    cases i <;> simp_all [selector, resultCount]

/-- 41_framer R163: only `NS` and `ZR` reach the phases of a checksummed response. -/
theorem instr_of_payload_phase {e : Engine} {i : Instr} (h : e.Runs i) (hp : e.ph = .rxPay ∨ e.ph = .rxCsum) :
    i = .ns ∨ ∃ n bh ah, i = .zr n bh ah := by
  have hsel : e.cur = 1 ∨ e.cur = 3 := by
    have hok := h.phase
    rcases hp with hp | hp
    all_goals
      simp only [Engine.phaseOk, hp, Bool.and_eq_true, decide_eq_true_eq] at hok
      exact hok.1
  rw [cur_of_command h.command] at hsel
  cases i <;> simp_all [selector]

theorem afterTx_leaves (i : Instr) (e : Engine) (b : Byte) : Engine.Leaves i e (e.afterTx b) := by
  obtain ⟨ts, p, x, d, h⟩ := afterTx_frame e b
  rw [h]
  exact leaves_hidden _ _ _ _ _ _ _ _ _ rfl

theorem storePay_leaves {e : Engine} {i : Instr} (b : Byte) (h : e.Runs i) (hph : e.ph = .rxPay) :
    Engine.Leaves i e (e.storePay b) := by
  have hcur := cur_of_command h.command
  obtain ⟨_, hlt, _⟩ := afterPayload_eq b h hph
  obtain rfl | ⟨n, bh, ah, rfl⟩ := instr_of_payload_phase h (.inl hph)
  · rw [Engine.storePay, if_pos (show e.cur = 1 from hcur)]
    exact leaves_setRes e b hlt
  · rw [Engine.storePay, if_neg (by simp [hcur, selector])]
    exact ⟨rfl, rfl, rfl, rfl, rfl, rfl, rfl, rfl, rfl, fun _ _ => rfl,
      fun k hk => read_write_other _ _ (Nat.ne_of_gt (Nat.lt_of_lt_of_le hlt hk)), fun _ => rfl⟩

theorem afterRx_leaves {e : Engine} {i : Instr} (b : Byte) (h : e.Runs i) : Engine.Leaves i e (e.afterRx b) := by
  obtain ⟨hack, hbyte, hraw⟩ := resultCount_of_phase h
  unfold Engine.afterRx
  split
  case h_1 hp =>
    unfold Engine.afterAck
    split_ifs
    · exact leaves_complete i e
    · exact (leaves_setRes e b (by rw [hack hp]; omega)).trans (leaves_raiseErr i _ _)
  case h_2 hp => exact (leaves_setRes e b (by rw [hbyte hp]; omega)).trans (leaves_complete i _)
  case h_3 hp =>
    have hset := leaves_setRes (i := i) e (j := e.idx.toNat) b (by rw [(hraw hp).1]; exact (hraw hp).2)
    unfold Engine.afterRaw
    split_ifs
    · exact hset.trans (leaves_hidden _ _ _ _ _ _ _ _ _ rfl)
    · exact hset.trans (leaves_complete i _)
  case h_4 hp => exact (storePay_leaves b h hp).trans (leaves_hidden _ _ _ _ _ _ _ _ _ rfl)
  case h_5 hp =>
    have htook : Engine.Leaves i e (e.tookCsum b) := by
      obtain rfl | ⟨n, bh, ah, rfl⟩ := instr_of_payload_phase h (.inr hp)
      · exact leaves_tookCsum e b rfl
      · exact leaves_tookCsum e b rfl
    have hmis : Engine.Leaves i e (e.tookCsum b).mismatched := htook.trans (leaves_hidden _ _ _ _ _ _ _ _ _ rfl)
    unfold Engine.afterCsum
    split_ifs
    · exact htook.trans (leaves_complete i _)
    · exact hmis.trans (leaves_raiseErr i _ _)
    · exact hmis.trans (leaves_complete i _)
  case h_6 => exact .refl i e

theorem Engine.Move.leaves {e e' : Engine} {i : Instr} (hm : Engine.Move e e') (h : e.Runs i) :
    Engine.Leaves i e e' := by
  cases hm with
  | send b hg hb => exact afterTx_leaves i e b
  | take b hg => exact afterRx_leaves b h
  | count hph hd => exact leaves_hidden _ _ _ _ _ _ _ _ _ rfl
  | expire d hph => exact leaves_hidden _ _ _ _ _ _ _ _ _ rfl

/-- Any number of moves: the operation stays the same command's, and leaves what that command does not name. -/
theorem Engine.Moves.leaves {e e' : Engine} {i : Instr} (hm : Engine.Moves e e') (h : e.Runs i) :
    e'.Runs i ∧ Engine.Leaves i e e' :=
  hm.keeps (P := fun f => f.Runs i ∧ Engine.Leaves i e f)
    (fun _ _ hstep hf => ⟨hstep.runs hf.1, hf.2.trans (hstep.leaves hf.1)⟩) ⟨h, .refl i e⟩

end Sys2Proof.Machine
end

section
/-! PROOFS. The moves of the block keep its invariant (10_state R28, R30, R32; 41_framer R164). -/

namespace Sys2Proof.Machine

/-! ### Every move keeps the block's invariant -/

/-- At rest the invariant of the block speaks of the flags, CUR, IDX and the buffers only. -/
theorem ok_of_idle {e : Engine} (hph : e.ph = .idle) (hbusy : e.status.busy = false)
    (hfatal : e.status.err.linkFatal = true → e.status.fault = true)
    (herr : e.status.err ≠ .none → e.status.done = true) (hcur : e.cur.toNat < 10)
    (hidx : e.idx.toNat ≤ Config.bufBytes) (htxbuf : e.txbuf.wf Config.bufBytes = true)
    (hrxbuf : e.rxbuf.wf Config.bufBytes = true) : e.Ok where
  busy := by simp [hph, hbusy]
  notDone h := absurd hph h
  noErr h := absurd hph h
  linkOpen h := absurd hph h
  noFault h := absurd hph h
  fatal := hfatal
  errDone := herr
  cur := hcur
  pages h := absurd hph h
  phase := phaseOk_of_idle hph
  idx := hidx
  timer h := absurd hph h
  txsum := by rw [Engine.txsumOk, hph]; trivial
  rxsum := by rw [Engine.rxsumOk, hph]; trivial
  txbuf := htxbuf
  rxbuf := hrxbuf

/-- R164 (a): an operation that ends with an error leaves the block in order. -/
theorem raiseErr_ok {e : Engine} (k : ErrKind) (hcur : e.cur.toNat < 10) (hidx : e.idx.toNat ≤ Config.bufBytes)
    (htxbuf : e.txbuf.wf Config.bufBytes = true) (hrxbuf : e.rxbuf.wf Config.bufBytes = true) : (e.raiseErr k).Ok :=
  ok_of_idle rfl rfl (fun _ => rfl) (fun _ => rfl) hcur hidx htxbuf hrxbuf

/-- R164 (a): an operation that completes leaves the block in order. -/
theorem complete_ok {e : Engine} (herr : e.status.err = .none) (hcur : e.cur.toNat < 10)
    (htxbuf : e.txbuf.wf Config.bufBytes = true) (hrxbuf : e.rxbuf.wf Config.bufBytes = true) : e.complete.Ok :=
  ok_of_idle rfl rfl (fun h => by simp [herr, ErrKind.linkFatal] at h) (fun _ => rfl) hcur (Nat.zero_le _)
    htxbuf hrxbuf

/-- An operation that goes on: its flags stand, and what is left to see to is the timer, the sums and RXBUF. -/
theorem ok_of_inFlight {e e' : Engine} {i : Instr} (h : e.Ok) (hph : e.ph ≠ .idle) (hrun : e'.Runs i)
    (hleaves : Engine.Leaves i e e') (hcur : e'.cur = e.cur) (hstatus : e'.status = e.status) (hph' : e'.ph ≠ .idle)
    (htimer : e'.dlt.toNat < max e.deadline.toNat 1) (htx : e'.txsumOk) (hrx : e'.rxsumOk)
    (hrxbuf : e'.rxbuf.wf Config.bufBytes = true) : e'.Ok where
  busy := by simp [hstatus, hph', h.busy.2 hph]
  notDone _ := by rw [hstatus, h.notDone hph]
  noErr _ := by rw [hstatus, h.noErr hph]
  linkOpen _ := by rw [hleaves.isOpen, h.linkOpen hph]
  noFault _ := by rw [hstatus, h.noFault hph]
  fatal := by rw [hstatus]; exact h.fatal
  errDone := by rw [hstatus]; exact h.errDone
  cur := by rw [hcur]; exact h.cur
  pages _ := by rw [hcur, hleaves.npages]; exact h.pages hph
  phase := hrun.phase
  idx := hrun.idx_le hph'
  timer _ := by rw [hleaves.deadline]; exact htimer
  txsum := htx
  rxsum := hrx
  txbuf := by rw [hleaves.txbuf]; exact h.txbuf
  rxbuf := hrxbuf

/-! ### The running sums -/

theorem transmit_cases {p : Phase} (h : p.group = .transmit) : p = .txHdr ∨ p = .txPay ∨ p = .txCsum := by
  cases p <;> simp_all [Phase.group]

theorem txsumOk_of_not_transmit {e : Engine} (h : e.ph.group ≠ .transmit) : e.txsumOk := by
  unfold Engine.txsumOk
  split <;> simp_all [Phase.group]

theorem rxsumOk_of_transmit {e : Engine} (hg : e.ph.group = .transmit) (h : e.rxsum = 0) : e.rxsumOk := by
  unfold Engine.rxsumOk
  split <;> simp_all [Phase.group]

/-- 10_state R30: while the request is sent no payload byte has been received. -/
theorem Engine.Ok.rxsum_eq_zero {e : Engine} (h : e.Ok) (hg : e.ph.group = .transmit) : e.rxsum = 0 := by
  rcases transmit_cases hg with hp | hp | hp <;> simpa [Engine.rxsumOk, hp] using h.rxsum

theorem payload_zero (e : Engine) : e.payload 0 = some [] := rfl

theorem payload_succ (e : Engine) (n : Nat) {p : List Byte} {b : Byte} (hp : e.payload n = some p)
    (hb : e.txbuf.read n = some b) : e.payload (n + 1) = some (p ++ [b]) := by
  rw [Engine.payload, readAt_span_succ, show e.txbuf.readAt (span 0 n) = some p from hp, hb]
  rfl

theorem received_zero (e : Engine) : e.received 0 = some [] := by
  unfold Engine.received
  split_ifs <;> rfl

/-- 10_state R30, 41_framer R152: TXSUM after a header byte. -/
theorem afterHdr_txsumOk {e : Engine} {i : Instr} {b : Byte} (h : e.Ok) (hrun : e.Runs i) (hph : e.ph = .txHdr)
    (hb : e.txByte = some b) : (e.afterHdr b).txsumOk := by
  have hidx : e.idx.toNat < e.hdr.length := by simpa [Engine.phaseOk, hph] using hrun.phase
  have hl : e.hdr.length ≤ 5 := by rw [hdr_eq hrun.command]; exact (encode_length i).2
  have hsum : e.txsum + b = sum8 (e.hdr.take (e.idx.toNat + 1)) := by
    have htx : e.txsum = sum8 (e.hdr.take e.idx.toNat) := by simpa [Engine.txsumOk, hph] using h.txsum
    have hbyte : e.hdr[e.idx.toNat] = b := by
      simpa only [Engine.txByte, hph, List.getD_eq_getElem _ _ hidx, Option.some.injEq] using hb
    rw [List.take_succ_eq_append_getElem hidx, sum8_concat, hbyte, htx]
  unfold Engine.afterHdr
  split_ifs with h1 h2 h3
  · unfold Engine.txsumOk
    rw [moveTo_ph, hph, moveTo_idx, succ_toNat e.idx rfl (by omega)]
    exact hsum
  all_goals rw [List.take_of_length_le (by omega)] at hsum
  · exact ⟨[], payload_zero e, by simpa using hsum⟩
  · exact ⟨[], by rw [show (((e.summedTx b).moveTo .txCsum 0).plen) = 0 by simpa using h2]; rfl, by simpa using hsum⟩
  · refine txsumOk_of_not_transmit ?_
    rw [enterRx_ph, summedTx_rxPhase, rxPhase_of_command hrun.command]
    cases i <;> simp [Instr.response, Response.phase, Phase.group]

/-- 10_state R30, 41_framer R153: TXSUM after a payload byte. -/
theorem afterPay_txsumOk {e : Engine} {i : Instr} {b : Byte} (h : e.Ok) (hrun : e.Runs i) (hph : e.ph = .txPay)
    (hb : e.txByte = some b) : (e.afterPay b).txsumOk := by
  have hidx : e.idx.toNat < e.plen := (by simpa [Engine.phaseOk, hph] using hrun.phase : e.cur = 2 ∧ _).2
  have hl : e.plen ≤ 65280 := by rw [plen_eq hrun.command]; exact payloadLen_le i
  obtain ⟨p, hp, hts⟩ : ∃ p, e.payload e.idx.toNat = some p ∧ e.txsum = sum8 (e.hdr ++ p) := by
    simpa [Engine.txsumOk, hph] using h.txsum
  have hpay := payload_succ e _ hp (by simpa [Engine.txByte, hph] using hb)
  have hsum : e.txsum + b = sum8 (e.hdr ++ (p ++ [b])) := by rw [hts, ← List.append_assoc, sum8_concat]
  unfold Engine.afterPay
  split_ifs with h1
  · unfold Engine.txsumOk
    rw [moveTo_ph, hph, moveTo_idx, succ_toNat e.idx rfl (by omega)]
    exact ⟨p ++ [b], hpay, hsum⟩
  · rw [show e.idx.toNat + 1 = e.plen by omega] at hpay
    exact ⟨p ++ [b], hpay, hsum⟩

/-- 10_state R30: RXSUM where the receive group begins. -/
theorem enterRx_rxsumOk {e : Engine} {i : Instr} (hc : e.command = some i) (h : e.rxsum = 0) :
    e.enterRx.rxsumOk := by
  unfold Engine.rxsumOk
  rw [enterRx_ph, rxPhase_of_command hc]
  cases i <;> simp only [Instr.response, Response.phase]
  all_goals exact ⟨[], received_zero _, h⟩

theorem enterRx_group {e : Engine} {i : Instr} (hc : e.command = some i) : e.enterRx.ph.group = .receive := by
  rw [enterRx_ph, rxPhase_of_command hc]
  cases i <;> rfl

/-! ### The moves, one by one -/

/-- Everything a byte of the request does: the group goes on, or the receive group begins (41_framer R152 to R155). -/
theorem afterTx_cases {e : Engine} (b : Byte) (hg : e.ph.group = .transmit) :
    (∃ p j, p.group = .transmit ∧ e.afterTx b = (e.summedTx b).moveTo p j) ∨
    ∃ ts, e.afterTx b = ({ e with txsum := ts } : Engine).enterRx := by
  unfold Engine.afterTx
  split
  case h_1 hph =>
    unfold Engine.afterHdr
    split_ifs
    · exact .inl ⟨_, _, hg, rfl⟩
    · exact .inl ⟨_, _, rfl, rfl⟩
    · exact .inl ⟨_, _, rfl, rfl⟩
    · exact .inr ⟨_, rfl⟩
  case h_2 hph =>
    unfold Engine.afterPay
    split_ifs
    · exact .inl ⟨_, _, hg, rfl⟩
    · exact .inl ⟨_, _, rfl, rfl⟩
  case h_3 => exact .inr ⟨_, rfl⟩
  case h_4 h1 h2 h3 => cases hp : e.ph <;> simp_all [Phase.group]

theorem afterTx_txsumOk {e : Engine} {i : Instr} {b : Byte} (h : e.Ok) (hrun : e.Runs i)
    (hb : e.txByte = some b) : (e.afterTx b).txsumOk := by
  unfold Engine.afterTx
  split
  · exact afterHdr_txsumOk h hrun ‹_› hb
  · exact afterPay_txsumOk h hrun ‹_› hb
  · exact txsumOk_of_not_transmit (by rw [enterRx_group hrun.command]; decide)
  · exact h.txsum

theorem afterTx_ok {e : Engine} {b : Byte} (h : e.Ok) (hg : e.ph.group = .transmit) (hb : e.txByte = some b) :
    (e.afterTx b).Ok := by
  have hph := ne_idle_of_transmit hg
  obtain ⟨i, hrun⟩ := h.runs hph
  have hrun' := (Engine.Move.send b hg hb).runs hrun
  have hleaves := afterTx_leaves i e b
  have htx := afterTx_txsumOk h hrun hb
  have hzero := h.rxsum_eq_zero hg
  rcases afterTx_cases b hg with ⟨p, j, hp, heq⟩ | ⟨ts, heq⟩ <;> rw [heq] at hrun' hleaves htx ⊢
  · exact ok_of_inFlight h hph hrun' hleaves rfl rfl (ne_idle_of_transmit hp) (h.timer hph) htx
      (rxsumOk_of_transmit hp hzero) h.rxbuf
  · exact ok_of_inFlight h hph hrun' hleaves rfl rfl
      (ne_idle_of_receive (enterRx_group (e := { e with txsum := ts }) hrun.command)) (by simp) htx
      (enterRx_rxsumOk (e := { e with txsum := ts }) hrun.command hzero) h.rxbuf

/-- 41_framer R159: the bytes stored are those received, one more. -/
theorem received_storePay {e : Engine} {i : Instr} {p : List Byte} (b : Byte) (hrun : e.Runs i) (hph : e.ph = .rxPay)
    (hp : e.received e.idx.toNat = some p) : (e.storePay b).received (e.idx.toNat + 1) = some (p ++ [b]) := by
  have hcur := cur_of_command hrun.command
  obtain ⟨_, hlt, _⟩ := afterPayload_eq b hrun hph
  obtain rfl | ⟨n, bh, ah, rfl⟩ := instr_of_payload_phase hrun (.inl hph)
  · have hc : e.cur = 1 := hcur
    have hlt9 : e.idx.toNat < 9 := hlt
    simp only [Engine.received, hc, if_true, Option.some.injEq] at hp
    simp only [Engine.storePay, Engine.received, hc, if_true, setRes_cur, setRes_res, Option.some.injEq]
    rw [Vector.toList_setIfInBounds, List.take_succ_eq_append_getElem (by simpa using hlt9),
      List.take_set_of_le (le_refl _), hp, List.getElem_set_self]
  · have hc : e.cur ≠ 1 := by simp [hcur, selector]
    simp only [Engine.received, hc, if_false] at hp
    simp only [Engine.storePay, Engine.received, hc, if_false]
    exact readAt_span_write _ _ b hp

theorem storePay_rxbuf_wf {e : Engine} {i : Instr} (b : Byte) (h : e.Ok) (hrun : e.Runs i) (hph : e.ph = .rxPay) :
    (e.storePay b).rxbuf.wf Config.bufBytes = true := by
  obtain ⟨_, hlt, _⟩ := afterPayload_eq b hrun hph
  have hle := payloadBack_le_bufBytes hrun.wellFormed
  unfold Engine.storePay
  split_ifs
  · exact h.rxbuf
  · exact write_wf b h.rxbuf (by omega)

theorem storePay_same (e : Engine) (b : Byte) :
    (e.storePay b).cur = e.cur ∧ (e.storePay b).status = e.status ∧ (e.storePay b).dlt = e.dlt ∧
      (e.storePay b).rxsum = e.rxsum := by
  obtain ⟨r, x, h⟩ := storePay_frame e b
  rw [h]
  exact ⟨rfl, rfl, rfl, rfl⟩

theorem afterPayload_ok {e : Engine} {i : Instr} (b : Byte) (h : e.Ok) (hrun : e.Runs i) (hph : e.ph = .rxPay) :
    (e.afterPayload b).Ok := by
  have hne : e.ph ≠ .idle := by simp [hph]
  have hg : e.ph.group = .receive := by rw [hph]; rfl
  have hafter : e.afterRx b = e.afterPayload b := by rw [Engine.afterRx, hph]
  have hrun' := hafter ▸ (Engine.Move.take b hg).runs hrun
  have hleaves := hafter ▸ afterRx_leaves b hrun
  obtain ⟨p, hp, hrx⟩ : ∃ p, e.received e.idx.toNat = some p ∧ e.rxsum = sum8 p := by
    simpa [Engine.rxsumOk, hph] using h.rxsum
  have hrec := received_storePay b hrun hph hp
  have hwf := storePay_rxbuf_wf b h hrun hph
  obtain ⟨hcur, hstatus, hdlt, hrxsum⟩ := storePay_same e b
  obtain ⟨hs, _, heq⟩ := afterPayload_eq b hrun hph
  have hsum : (e.storePay b).rxsum + b = sum8 (p ++ [b]) := by rw [sum8_concat, ← hrx, hrxsum]
  rw [heq] at hrun' hleaves ⊢
  have htimer : (e.storePay b).dlt.toNat < max e.deadline.toNat 1 := by rw [hdlt]; exact h.timer hne
  by_cases hlast : e.idx.toNat + 1 = payloadBack i <;> simp only [hlast, if_true, if_false] at hrun' hleaves ⊢
  all_goals
    refine ok_of_inFlight h hne hrun' hleaves hcur hstatus (by simp) htimer trivial ⟨p ++ [b], ?_, hsum⟩ hwf
    rw [moveTo_idx, hs]
    exact hrec

theorem afterRaw_ok {e : Engine} {i : Instr} (b : Byte) (h : e.Ok) (hrun : e.Runs i) (hph : e.ph = .rxRaw) :
    (e.afterRaw b).Ok := by
  have hne : e.ph ≠ .idle := by simp [hph]
  have hg : e.ph.group = .receive := by rw [hph]; rfl
  have hafter : e.afterRx b = e.afterRaw b := by rw [Engine.afterRx, hph]
  have hrun' := hafter ▸ (Engine.Move.take b hg).runs hrun
  have hleaves := hafter ▸ afterRx_leaves b hrun
  unfold Engine.afterRaw at hrun' hleaves ⊢
  split_ifs at hrun' hleaves ⊢ with hlast
  · exact ok_of_inFlight h hne hrun' hleaves rfl rfl hne (h.timer hne)
      (txsumOk_of_not_transmit (by simp [hph, Phase.group])) (by simp [Engine.rxsumOk, hph]) h.rxbuf
  · exact complete_ok (h.noErr hne) h.cur h.txbuf h.rxbuf

theorem afterRx_ok {e : Engine} (b : Byte) (h : e.Ok) (hg : e.ph.group = .receive) : (e.afterRx b).Ok := by
  have hne := ne_idle_of_receive hg
  obtain ⟨i, hrun⟩ := h.runs hne
  unfold Engine.afterRx
  split
  · unfold Engine.afterAck
    split_ifs
    · exact complete_ok (h.noErr hne) h.cur h.txbuf h.rxbuf
    · exact raiseErr_ok _ h.cur h.idx h.txbuf h.rxbuf
  · exact complete_ok (h.noErr hne) h.cur h.txbuf h.rxbuf
  · exact afterRaw_ok b h hrun ‹_›
  · exact afterPayload_ok b h hrun ‹_›
  · unfold Engine.afterCsum
    split_ifs
    · exact complete_ok (h.noErr hne) h.cur h.txbuf h.rxbuf
    · exact raiseErr_ok _ h.cur h.idx h.txbuf h.rxbuf
    · exact complete_ok (h.noErr hne) h.cur h.txbuf h.rxbuf
  · exact h

/-- 40_transport R128: a time unit before the deadline leaves the timer below it. -/
theorem countUnit_ok {e : Engine} (h : e.Ok) (hd : e.due = false) :
    ({ e with dlt := e.dlt + 1 } : Engine).Ok := by
  have hlt : (e.dlt + 1).toNat < e.deadline.toNat := by simpa [Engine.due] using hd
  exact { h with timer := fun _ => Nat.lt_of_lt_of_le hlt (Nat.le_max_left _ _) }

/-- Every move of the block keeps its invariant. -/
theorem Engine.Move.ok {e e' : Engine} (hm : Engine.Move e e') (h : e.Ok) : e'.Ok := by
  cases hm with
  | send b hg hb => exact afterTx_ok h hg hb
  | take b hg => exact afterRx_ok b h hg
  | count hph hd => exact countUnit_ok h hd
  | expire d hph => exact raiseErr_ok _ h.cur h.idx h.txbuf h.rxbuf

end Sys2Proof.Machine
end

section
/-! PROOFS. Every step of the machine keeps the invariant, and so does every run from reset. -/

namespace Sys2Proof.Machine

/-! ### The host's writes keep the invariant -/

theorem Engine.Ok.idle_of_free {e : Engine} (h : e.Ok) (hb : e.status.busy = false) : e.ph = .idle := by
  by_contra hph
  simp [h.busy.2 hph] at hb

/-- At rest, operand registers, DEADLINE, CTRL and the buffers may change. -/
theorem ok_of_idle_of_same {e e' : Engine} (h : e.Ok) (hph : e.ph = .idle) (hph' : e'.ph = .idle)
    (hstatus : e'.status = e.status) (hcur : e'.cur = e.cur) (hidx : e'.idx = e.idx)
    (htxbuf : e'.txbuf.wf Config.bufBytes = true) (hrxbuf : e'.rxbuf.wf Config.bufBytes = true) : e'.Ok := by
  have hbusy : e.status.busy = false := by
    rw [← Bool.not_eq_true, h.busy]
    exact not_not_intro hph
  exact ok_of_idle hph' (hstatus ▸ hbusy) (hstatus ▸ h.fatal) (hstatus ▸ h.errDone) (hcur ▸ h.cur) (hidx ▸ h.idx)
    htxbuf hrxbuf

/-- 10_state R27: a dropped write leaves OVR, of which the invariant does not speak. -/
theorem overrun_ok {e : Engine} (h : e.Ok) : ({ e with status := e.status.overrun } : Engine).Ok :=
  ⟨h.busy, h.notDone, h.noErr, h.linkOpen, h.noFault, h.fatal, h.errDone, h.cur, h.pages, h.phase, h.idx, h.timer,
    h.txsum, h.rxsum, h.txbuf, h.rxbuf⟩

theorem opened_ok {e : Engine} (h : e.Ok) (hb : e.status.busy = false) : e.opened.Ok :=
  ok_of_idle rfl hb (fun hk => by simp [ErrKind.linkFatal] at hk) (fun hk => absurd rfl hk) h.cur (Nat.zero_le _)
    h.txbuf h.rxbuf

theorem closed_ok {e : Engine} (h : e.Ok) : e.closed.Ok := by
  unfold Engine.closed
  split_ifs with hph
  · exact ok_of_idle_of_same h hph hph rfl rfl rfl h.txbuf h.rxbuf
  · exact ok_of_idle rfl rfl (fun hk => h.fatal hk) (fun hk => h.errDone hk) h.cur h.idx h.txbuf h.rxbuf

/-- 41_framer R151: a transfer that is accepted has a legal page count. -/
theorem legalPages_of_not_refuses {e : Engine} {sel : BitVec 4} (hr : e.refuses sel = false)
    (hsel : sel = 2 ∨ sel = 3) : legalPages e.npages = true := by
  have hn : ¬ (e.npages = 0 ∨ Config.maxPages < e.npages.toNat) := fun hn => by
    simp [(refuses_iff e sel).2 (.inr (.inr (.inr ⟨hsel, hn⟩)))] at hr
  rw [not_or, not_lt] at hn
  simpa [legalPages] using hn

/-- 41_framer R151: an accepted command stands at the first byte of its header. -/
theorem accepted_runs {e : Engine} {sel : BitVec 4} {i : Instr} (hr : e.refuses sel = false)
    (hc : (e.accept sel).command = some i) : (e.accept sel).Runs i := by
  have hlen : 0 < (encode i).length := Nat.lt_of_lt_of_le Nat.two_pos (encode_length i).1
  rw [← hdr_eq hc] at hlen
  rw [accept_accepted hr] at hc hlen ⊢
  exact ⟨hc, wellFormed_of_pages hc (legalPages_of_not_refuses hr), decide_eq_true hlen⟩

/-- 41_framer R151: a command that is accepted starts in order. -/
theorem accepted_ok {e : Engine} {sel : BitVec 4} (hr : e.refuses sel = false)
    (htxbuf : e.txbuf.wf Config.bufBytes = true) (hrxbuf : e.rxbuf.wf Config.bufBytes = true) :
    (e.accept sel).Ok := by
  have hall := mt (refuses_iff e sel).2 (by simp [hr])
  rw [not_or, not_or, not_or, not_le] at hall
  obtain ⟨hopen, hfault, hsel, _⟩ := hall
  have hcur : (e.accept sel).cur.toNat < 10 := by rw [accept_accepted hr]; exact hsel
  obtain ⟨i, hi⟩ := exists_command hcur
  have hphase := (accepted_runs hr hi).phase
  rw [accept_accepted hr] at hphase ⊢
  exact
    { busy := by simp, notDone := fun _ => rfl, noErr := fun _ => rfl, linkOpen := fun _ => by simpa using hopen
      noFault := fun _ => by simpa using hfault, fatal := fun hk => by simp [ErrKind.linkFatal] at hk
      errDone := fun hk => absurd rfl hk, cur := hsel, pages := fun _ => legalPages_of_not_refuses hr
      phase := hphase, idx := Nat.zero_le _, timer := fun _ => by simp, txsum := rfl, rxsum := rfl
      txbuf := htxbuf, rxbuf := hrxbuf }

theorem accept_ok {e : Engine} (sel : BitVec 4) (h : e.Ok) (hb : e.status.busy = false) : (e.accept sel).Ok := by
  cases hr : e.refuses sel
  · exact accepted_ok hr h.txbuf h.rxbuf
  · rw [accept_refused hr]
    exact ok_of_idle (h.idle_of_free hb) hb (fun hk => by simp [ErrKind.linkFatal] at hk) (fun _ => rfl) h.cur h.idx
      h.txbuf h.rxbuf

/-! ### The machine's invariant, part by part -/

theorem Inv.of_same_dev {s t : State} (h : Inv s) (heng : t.eng.Ok) (hdev : t.dev = s.dev) : Inv t :=
  ⟨heng, hdev ▸ h.mem⟩

theorem Inv.of_same {s t : State} (h : Inv s) (heng : t.eng = s.eng) (hdev : t.dev = s.dev) : Inv t :=
  h.of_same_dev (heng ▸ h.eng) hdev

theorem lockedWrite_inv {s : State} {f : Engine → Engine} (h : Inv s)
    (hf : s.eng.status.busy = false → (f s.eng).Ok) : Inv (lockedWrite s f) := by
  rcases lockedWrite_cases s f with ⟨_, heq⟩ | ⟨hb, heq⟩ <;> rw [heq]
  · exact h.of_same_dev (overrun_ok h.eng) rfl
  · exact h.of_same_dev (hf hb) rfl

/-- A locked write of a register the invariant constrains only in flight. -/
theorem lockedWrite_inv_of_same {s : State} {f : Engine → Engine} (h : Inv s) (hph : (f s.eng).ph = s.eng.ph)
    (hstatus : (f s.eng).status = s.eng.status) (hcur : (f s.eng).cur = s.eng.cur) (hidx : (f s.eng).idx = s.eng.idx)
    (htxbuf : (f s.eng).txbuf.wf Config.bufBytes = true) (hrxbuf : (f s.eng).rxbuf = s.eng.rxbuf) :
    Inv (lockedWrite s f) :=
  lockedWrite_inv h fun hb =>
    have hidle := h.eng.idle_of_free hb
    ok_of_idle_of_same h.eng hidle (hph.trans hidle) hstatus hcur hidx htxbuf (hrxbuf ▸ h.eng.rxbuf)

theorem writeCtrl_inv {s : State} (v : HostWord) (h : Inv s) : Inv (writeCtrl s v) := by
  rcases writeCtrl_cases s v with ⟨_, _, _, heq⟩ | ⟨_, _, heq⟩ | ⟨hb, s', heq, hs'⟩ <;> rw [heq]
  · exact h.of_same_dev (closed_ok h.eng) rfl
  · exact h.of_same_dev (overrun_ok h.eng) rfl
  · have hidle := h.eng.idle_of_free hb
    have hmid : s'.eng.Ok ∧ s'.eng.ph = .idle ∧ s'.dev = s.dev := by
      rcases hs' with ⟨_, rfl⟩ | ⟨_, _, rfl⟩ | ⟨_, _, rfl⟩
      · exact ⟨h.eng, hidle, rfl⟩
      · exact ⟨opened_ok h.eng hb, rfl, rfl⟩
      · exact ⟨closed_ok h.eng, by simp [Engine.closed, hidle], rfl⟩
    obtain ⟨hok, hph, hdev⟩ := hmid
    exact h.of_same_dev (ok_of_idle_of_same hok hph hph rfl rfl rfl hok.txbuf hok.rxbuf) hdev

theorem writeReg_inv {s : State} (r : HostReg) (v : HostWord) (h : Inv s) : Inv (writeReg r v s) := by
  cases r <;> simp only [writeReg]
  case cmd => exact lockedWrite_inv h (accept_ok _ h.eng)
  case ctrl => exact writeCtrl_inv v h
  case npages | bankhi | addrhi | bank | deadline => exact lockedWrite_inv_of_same h rfl rfl rfl rfl h.eng.txbuf rfl
  case status | res | rxsum | rxcs | idx => exact h

theorem writeRegs_inv (ws : List (HostReg × HostWord)) : ∀ {s : State}, Inv s → Inv (writeRegs ws s) := by
  induction ws with
  | nil => exact id
  | cons w ws ih => exact fun h => ih (writeReg_inv w.1 w.2 h)

theorem writeNo_inv {s : State} (no : Nat) (v : HostWord) (h : Inv s) : Inv (writeNo no v s) := by
  unfold writeNo
  split
  · exact writeReg_inv _ v h
  · exact h

theorem writeTxbuf_inv {s : State} (k : Nat) (v : HostWord) (h : Inv s) : Inv (writeTxbuf k v s) := by
  unfold writeTxbuf
  split_ifs with hk
  · exact lockedWrite_inv_of_same h rfl rfl rfl rfl (write_wf _ h.eng.txbuf hk) rfl
  · exact h

theorem fillTxbuf_inv (bs : List Byte) : ∀ (k : Nat) {s : State}, Inv s → Inv (fillTxbuf k bs s) := by
  induction bs with
  | nil => exact fun _ _ => id
  | cons b bs ih => exact fun k _ h => ih (k + 1) (writeTxbuf_inv k _ h)

/-! ### The host's reads keep the invariant -/

/-- A host read changes the returned value and the counter of free values only (10_state R21; log 11, log 22). -/
theorem readReg_frame (r : HostReg) (s : State) : ∃ v n, readReg r s = { s with readData := v, free := n } := by
  unfold readReg
  split
  case h_9 => split_ifs <;> exact ⟨_, _, rfl⟩
  all_goals exact ⟨_, s.free, rfl⟩

theorem readNo_frame (no : Nat) (s : State) : ∃ v n, readNo no s = { s with readData := v, free := n } := by
  unfold readNo
  split
  · exact readReg_frame _ s
  · exact ⟨_, _, rfl⟩

theorem readTxbuf_frame {k : Nat} {s t : State} (h : readTxbuf k s = .next t) :
    ∃ v n, t = { s with readData := v, free := n } := by
  unfold readTxbuf at h
  split at h
  · split at h <;> cases h
    exact ⟨_, s.free, rfl⟩
  · cases h
    exact ⟨_, _, rfl⟩

theorem readRxbuf_frame {k : Nat} {s t : State} (h : readRxbuf k s = .next t) :
    ∃ v n, t = { s with readData := v, free := n } := by
  unfold readRxbuf at h
  split at h
  · split at h
    · cases h
      exact ⟨_, _, rfl⟩
    · split at h <;> cases h
      exact ⟨_, s.free, rfl⟩
  · cases h
    exact ⟨_, _, rfl⟩

/-! ### The other agents keep the invariant -/

theorem deviceSpan_lt {p n a : Nat} (h : a ∈ deviceSpan p n) : a < Config.memBytes := by
  obtain ⟨k, _, rfl⟩ := List.mem_map.1 h
  exact Nat.mod_lt _ (by decide)

/-- 46_device R261: what the responder writes stays within device memory. -/
theorem apply_mem_wf {d d' : Device} {i : Instr} {payload r : List Byte} (h : d.apply i payload = some (d', r))
    (hd : d.mem.wf Config.memBytes = true) : d'.mem.wf Config.memBytes = true := by
  cases i with
  | zw n bh ah =>
    cases h
    exact writeAt_wf _ _ hd fun c hc => deviceSpan_lt (List.of_mem_zip hc).1
  | zr n bh ah =>
    unfold Device.apply at h
    simp only at h
    split at h <;> cases h
    exact hd
  | vv | ns | br | brr | bs | be | bes | ber =>
    cases h
    exact hd

theorem respond_mem_wf {d d' : Device} {i : Instr} {payload r : List Byte} (h : d.respond i payload = some (d', r))
    (hd : d.mem.wf Config.memBytes = true) : d'.mem.wf Config.memBytes = true := by
  rcases respond_cases h with ⟨_, _, rfl, _⟩ | ⟨_, happly⟩
  · exact hd
  · exact apply_mem_wf happly hd

theorem reset_ok : Engine.reset.Ok :=
  ok_of_idle rfl rfl (fun h => by cases h) (fun h => absurd rfl h) (by decide) (Nat.zero_le _) rfl rfl

/-- Only the responder's step and the device's power cycle touch device memory. -/
theorem byteStep_dev {s t : State} (h : byteStep s = .next t) : t.dev = s.dev := by
  rcases byteStep_cases h with ⟨_, rfl⟩ | ⟨b, _, _, rfl⟩ | ⟨b, rest, _, _, rfl⟩ <;> rfl

theorem tick_dev {s t : State} (h : tick s = .next t) : t.dev = s.dev := by
  rcases tick_cases h with ⟨_, rfl⟩ | ⟨_, _, rfl⟩ | ⟨_, _, _, rfl⟩ | ⟨_, _, _, s1, hs1, rfl⟩
  · rfl
  · rfl
  · rfl
  · split_ifs <;> exact (byteStep_dev hs1 : s1.dev = s.dev)

theorem deviceStep_mem_wf {s t : State} (h : deviceStep s = .next t) (hs : s.dev.mem.wf Config.memBytes = true) :
    t.dev.mem.wf Config.memBytes = true := by
  rcases deviceStep_cases h with ⟨_, rfl⟩ | ⟨_, i, payload, rest, d, r, _, hr, rfl⟩
  · exact hs
  · exact respond_mem_wf hr hs

theorem envStep_mem_wf {e : EnvEvent} {s t : State} (h : envStep e s = .next t)
    (hs : s.dev.mem.wf Config.memBytes = true) : t.dev.mem.wf Config.memBytes = true := by
  cases e with
  | engine => rw [byteStep_dev h]; exact hs
  | device => exact deviceStep_mem_wf h hs
  | tick => rw [tick_dev h]; exact hs
  | powerCycle => cases h; rfl
  | reset => cases h; exact hs
  | peerSend b => cases h; unfold peerSend; split_ifs <;> exact hs
  | peerTake => cases h; unfold peerTake; split_ifs <;> exact hs
  | txFail => cases h; unfold txFail; split_ifs <;> exact hs
  | rxTimeout => cases h; unfold rxTimeout; split_ifs <;> exact hs

theorem Engine.Moves.ok {e e' : Engine} (hm : Engine.Moves e e') (h : e.Ok) : e'.Ok :=
  hm.keeps (P := Engine.Ok) (fun _ _ hstep => hstep.ok) h

theorem envStep_inv {e : EnvEvent} {s t : State} (hs : Inv s) (h : envStep e s = .next t) : Inv t := by
  refine ⟨?_, envStep_mem_wf h hs.mem⟩
  by_cases hr : e = .reset
  · subst hr
    cases h
    exact reset_ok
  · exact (envStep_movesTo hr h).eng.ok hs.eng

theorem autoStep_inv {s t : State} (hs : Inv s) (h : autoStep s = .next t) : Inv t := by
  refine ⟨(autoStep_movesTo h).eng.ok hs.eng, ?_⟩
  rcases autoStep_cases s with ⟨_, ha⟩ | ⟨_, _, ha⟩ | ⟨_, _, ha⟩ <;> rw [ha] at h
  · rw [byteStep_dev h]; exact hs.mem
  · exact deviceStep_mem_wf h hs.mem
  · rw [tick_dev h]; exact hs.mem

/-! ### Command lines and firmware calls keep the invariant -/

theorem pollStep_inv {s t : State} (hs : Inv s) (h : pollStep s = .next t) : Inv t := by
  rcases pollStep_cases h with ⟨e, rest, _, he⟩ | ⟨_, ha⟩
  · exact envStep_inv (s := s.putAgenda rest) (hs.of_same rfl rfl) he
  · exact autoStep_inv hs ha

theorem commandLine_inv {ws : List (HostReg × HostWord)} {sel : BitVec 4} {s t : State} (hs : Inv s)
    (h : commandLine ws sel s = .next t) : Inv t :=
  poll_keeps (P := Inv) (fun _ _ hu _ hstep => pollStep_inv hu hstep) _ _ _ (writeReg_inv _ _ (writeRegs_inv ws hs)) h

theorem exec_inv {i : Instr} {s t : State} (hs : Inv s) (h : exec i s = .next t) : Inv t :=
  commandLine_inv hs (exec_eq_commandLine i s ▸ h)

theorem startRead_inv {s : State} (start stop block : Int) (h : Inv s) : Inv (startRead start stop block s) := by
  unfold startRead
  split_ifs <;> exact h.of_same rfl rfl

theorem startWrite_inv {s : State} (data : List Byte) (start block : Int) (h : Inv s) :
    Inv (startWrite data start block s) := by
  unfold startWrite
  split_ifs <;> exact h.of_same rfl rfl

theorem nextElement_inv {s t : State} (hs : Inv s) (h : nextElement s = .next t) : Inv t := by
  unfold nextElement at h
  split at h
  · cases h
    exact hs
  · obtain ⟨s', hexec, ⟨_, rfl⟩ | ⟨_, bytes, _, rfl⟩⟩ := nextRead_cases h
    all_goals exact (exec_inv hs hexec).of_same rfl rfl
  · obtain ⟨s', hexec, ⟨_, rfl⟩ | ⟨_, rfl⟩⟩ := nextWrite_cases h
    all_goals exact (exec_inv (fillTxbuf_inv _ 0 hs) hexec).of_same rfl rfl

theorem runCommand_inv {header : List Byte} {s t : State} (hs : Inv s) (h : runCommand header s = .next t) :
    Inv t := by
  unfold runCommand at h
  split at h
  · exact exec_inv hs h
  · cases h

theorem hostStep_inv {e : HostEvent} {s t : State} (hs : Inv s) (h : hostStep e s = .next t) : Inv t := by
  cases e with
  | command header => exact runCommand_inv hs h
  | line l => exact commandLine_inv hs h
  | openLine | closeLine => cases h; exact writeCtrl_inv _ hs
  | write no v => cases h; exact writeNo_inv no v hs
  | read no =>
    cases h
    obtain ⟨v, n, heq⟩ := readNo_frame no s
    rw [heq]
    exact hs.of_same rfl rfl
  | writeTx k v => exact Host.Outcome.next.inj h ▸ writeTxbuf_inv k v hs
  | readTx k =>
    obtain ⟨v, n, rfl⟩ := readTxbuf_frame h
    exact hs.of_same rfl rfl
  | readRx k =>
    obtain ⟨v, n, rfl⟩ := readRxbuf_frame h
    exact hs.of_same rfl rfl
  | readRange start stop block => cases h; exact startRead_inv _ _ _ hs
  | writeRange data start block => cases h; exact startWrite_inv _ _ _ hs
  | nextElement => exact nextElement_inv hs h

theorem step_inv {s t : State} (hs : Inv s) (h : step s = .next t) : Inv t := by
  unfold step at h
  split at h
  · exact autoStep_inv hs h
  case h_2 e rest _ =>
    have hs' : Inv (s.putAgenda rest) := hs.of_same rfl rfl
    cases e with
    | host e => exact hostStep_inv hs' h
    | env e => exact envStep_inv hs' h

/-! ### The invariant: O43, O42, O44 -/

/-- Settles O43: the host's writes, its reads, and the moves of the other agents each keep the invariant. -/
theorem stepKeepsTheInvariant : Obligations.StepKeepsTheInvariant := fun _ _ hs h => step_inv hs h

theorem reset_inv : Inv State.reset := ⟨reset_ok, rfl⟩

/-- Settles O42: every register of the block is at rest, and no byte of the memories has a value. -/
theorem resetMeetsTheInvariant : Obligations.ResetMeetsTheInvariant := reset_inv

theorem runsTo_inv : ∀ (n : Nat) {s t : State}, Inv s → runsTo n s t → Inv t := by
  intro n
  induction n with
  | zero => rintro s t hs rfl; exact hs
  | succ n ih =>
    rintro s t hs ⟨u, hstep, hrun⟩
    exact ih (step_inv hs hstep) hrun

/-- Settles O44, by induction on the number of steps: the plan and the peer are no part of the invariant. -/
theorem reachableStatesMeetTheInvariant : Obligations.ReachableStatesMeetTheInvariant := by
  rintro t ⟨plan, peer, n, hrun⟩
  exact runsTo_inv n (s := { State.reset with agenda := plan, peer := peer }) (reset_inv.of_same rfl rfl) hrun

end Sys2Proof.Machine
end

section
/-! PROOFS. A command line leaves every register it does not name as it was, under any plan without a reset. -/

namespace Sys2Proof.Machine

/-! ### Polling, under a plan without a reset -/

/-- No reset is planned. -/
def NoReset (s : State) : Prop := ∀ e, .env e ∈ s.agenda → e ≠ .reset

/-- A polling step is made of the block's moves, and leaves the host's side alone. -/
theorem pollStep_moves {s t : State} (hn : NoReset s) (h : pollStep s = .next t) :
    Engine.Moves s.eng t.eng ∧ SameHostSide s t ∧ NoReset t := by
  rcases pollStep_cases h with ⟨e, rest, hagenda, henv⟩ | ⟨_, hauto⟩
  · have hm := envStep_movesTo (hn e (by simp [hagenda])) henv
    refine ⟨hm.eng, ⟨hm.host.fw, hm.host.fwOut, hm.host.fwEnd, hm.host.peer, hm.host.readData⟩, fun e' he' => ?_⟩
    rw [hm.agenda, putAgenda_agenda] at he'
    exact hn e' (by simp [hagenda, he'])
  · have hm := autoStep_movesTo hauto
    exact ⟨hm.eng, hm.host, fun e' he' => hn e' (hm.agenda ▸ he')⟩

/-- While the operation of `i` is in flight, the whole wait leaves alone what `i` does not name. -/
theorem poll_leaves {i : Instr} {s t : State} (n : Nat) (hn : NoReset s) (hrun : s.eng.Runs i)
    (h : poll n s = .next t) : Engine.Leaves i s.eng t.eng ∧ SameHostSide s t := by
  obtain ⟨_, _, hkept⟩ : NoReset t ∧ t.eng.Runs i ∧ Engine.Leaves i s.eng t.eng ∧ SameHostSide s t := by
    refine poll_keeps (P := fun u => NoReset u ∧ u.eng.Runs i ∧ Engine.Leaves i s.eng u.eng ∧ SameHostSide s u)
      ?_ n s t ⟨hn, hrun, .refl i _, .refl s⟩ h
    rintro u v ⟨hnu, hru, hlu, hsu⟩ _ hstep
    obtain ⟨hm, hs, hnv⟩ := pollStep_moves hnu hstep
    obtain ⟨hrv, hlv⟩ := hm.leaves hru
    exact ⟨hnv, hrv, hlu.trans hlv, hsu.trans hs⟩
  exact hkept

/-! ### Acceptance and the operand writes -/

theorem accept_leaves (i : Instr) (e : Engine) (sel : BitVec 4) : Engine.Leaves i e (e.accept sel) := by
  cases hr : e.refuses sel
  · rw [accept_accepted hr]
    exact leaves_hidden _ _ _ _ _ _ _ _ _ rfl
  · rw [accept_refused hr]
    exact leaves_hidden _ _ _ _ _ _ _ _ _ rfl

/-- A command line on an idle block, from the operand writes to its end (30_encoding R104). -/
theorem exec_leaves {i : Instr} {s t : State} (hb : s.eng.status.busy = false) (hph : s.eng.ph = .idle)
    (hn : NoReset s) (h : exec i s = .next t) :
    Engine.Leaves i (s.eng.withOperands i) t.eng ∧ SameHostSide s t := by
  rw [exec_free i hb, awaitIdle] at h
  have hacc := accept_leaves i (s.eng.withOperands i) (selector i)
  cases hr : (s.eng.withOperands i).refuses (selector i)
  · have hcmd : ((s.eng.withOperands i).accept (selector i)).command = some i := by
      rw [accept_accepted hr]
      exact command_withOperands ..
    obtain ⟨hleaves, hside⟩ := poll_leaves (s := s.putEng ((s.eng.withOperands i).accept (selector i))) _ hn
      (accepted_runs hr hcmd) h
    exact ⟨hacc.trans hleaves, hside.fw, hside.fwOut, hside.fwEnd, hside.peer, hside.readData⟩
  · rw [poll_idle _ (by rw [putEng_eng, accept_refused hr]; simpa using hph)] at h
    cases h
    exact ⟨hacc, rfl, rfl, rfl, rfl, rfl⟩

/-! 10_state R23 to R26: the operand writes change the operand registers only. -/

@[simp] theorem withOperands_deadline (e : Engine) (i : Instr) : (e.withOperands i).deadline = e.deadline := by
  cases i <;> rfl

@[simp] theorem withOperands_csumEnforce (e : Engine) (i : Instr) :
    (e.withOperands i).csumEnforce = e.csumEnforce := by
  cases i <;> rfl

@[simp] theorem withOperands_res (e : Engine) (i : Instr) : (e.withOperands i).res = e.res := by cases i <;> rfl

@[simp] theorem withOperands_rxbuf (e : Engine) (i : Instr) : (e.withOperands i).rxbuf = e.rxbuf := by
  cases i <;> rfl

@[simp] theorem withOperands_rxcs (e : Engine) (i : Instr) : (e.withOperands i).rxcs = e.rxcs := by cases i <;> rfl

/-- Settles O47: acceptance and every polling step leave alone what the command does not name. -/
theorem commandsLeaveOtherRegistersAlone : Obligations.CommandsLeaveOtherRegistersAlone := by
  intro i s t hb hph hn h
  obtain ⟨hl, hside⟩ := exec_leaves hb hph hn h
  exact ⟨by simpa using hl.txbuf, by simpa using hl.deadline, by simpa using hl.isOpen, by simpa using hl.csumEnforce,
    by simpa using hl.ovr, hl.npages, hl.bankhi, hl.addrhi, hl.bank, by simpa using hl.res, by simpa using hl.rxbuf,
    by simpa using hl.rxcs, hside.fw, hside.fwOut, hside.fwEnd, hside.peer, hside.readData⟩

end Sys2Proof.Machine
end

section
/-! PROOFS. What a command line does on a block at rest when its answer waits in `d2h`, when the answer is cut short,
and when a payload byte was never written. -/

namespace Sys2Proof.Machine

/-! ### One byte of response -/

theorem Ready.idle {s : State} (h : Ready s) : s.eng.ph = .idle := h.2.1

theorem response_phase_group (r : Response) : (Response.phase r).group = .receive := by cases r <;> rfl

/-- A command whose response ends with the byte that waits takes it and is done (30_encoding R104). -/
theorem exec_of_last_byte {i : Instr} {s : State} {p : List Byte} {b : Byte} {rest : List Byte} (hr : Ready s)
    (hq : Quiet s) (hw : i.wellFormed = true) (hp : HasPayload i p s) (hd : s.d2h = b :: rest)
    (hend : ((responding s i p).eng.afterRx b).ph = .idle) :
    exec i s = .next (((responding s i p).putD2h rest).putEng ((responding s i p).eng.afterRx b)) := by
  obtain ⟨n, hn, he⟩ := exec_ready hr hq hw hp
  obtain ⟨m, rfl⟩ : ∃ m, n = m + 1 := ⟨n - 1, by omega⟩
  rw [he, poll_receive m (s := responding s i p) hq (response_phase_group _) hd, poll_idle _ hend]

theorem sent_ph {e : Engine} (i : Instr) (p : List Byte) (hph : e.ph = .idle) : (e.sent i p).ph = .idle :=
  (withOperands_ph e i).trans hph

theorem setPh_self {e : Engine} {p : Phase} (h : e.ph = p) : ({ e with ph := p } : Engine) = e := by
  subst h
  rfl

/-- From a block at rest: when the operation is over, PH is back where it was. -/
theorem sent_atRest {e : Engine} (i : Instr) (p : List Byte) (hph : e.ph = .idle) :
    ({ e.sent i p with ph := .idle } : Engine) = e.sent i p :=
  setPh_self (sent_ph i p hph)

/-- From a block at rest: a completed operation leaves IDX and PH as they were. -/
theorem complete_sent {e : Engine} (i : Instr) (p : List Byte) (hph : e.ph = .idle) (q : Phase) :
    ({ e.sent i p with ph := q } : Engine).complete = { e.sent i p with status := e.status.after false } := by
  rw [← sent_atRest i p hph]
  rfl

/-- 30_encoding R99, 43_memory R180: the bytes of a whole `ZW` frame. -/
theorem frameOf_zw (n : Byte) (bh : Bank) (ah : Byte) (p : List Byte) :
    frameOf (.zw n bh ah) p
      = [0x5A, 0x57, n, byteOfBank bh, ah] ++ p ++ [0xB1 + n + byteOfBank bh + ah + sum8 p] := by
  rw [frameOf_eq, if_pos (by rfl), sum8_append]
  simp [encode, ← BitVec.add_assoc]

/-- 30_encoding R99, 43_memory R181: the bytes of a whole `ZR` frame. -/
theorem frameOf_zr (n : Byte) (bh : Bank) (ah : Byte) :
    frameOf (.zr n bh ah) [] = [0x5A, 0x52, n, byteOfBank bh, ah, 0xAC + n + byteOfBank bh + ah] := by
  rw [frameOf_eq, if_pos (by rfl)]
  simp [encode, ← BitVec.add_assoc]

/-- Settles O23: the acknowledgement that waits completes the transfer. -/
theorem zwSendsThePages : Obligations.ZwSendsThePages := by
  intro s n bh ah payload rest hr hq hn hp hd
  have hafter : (responding s (.zw n bh ah) payload).eng.afterRx Config.ackByte
      = { s.eng.sent (.zw n bh ah) payload with status := s.eng.status.after false } := by
    rw [← complete_sent (.zw n bh ah) payload hr.idle .rxAck]
    exact if_pos rfl
  rw [exec_of_last_byte (i := .zw n bh ah) hr hq hn hp hd (by rw [hafter]; exact hr.idle), hafter]
  simp only [responding, State.putD2h, State.putEng, frameOf_zw, List.append_assoc]

/-- 44_bank R201, R204, R205: a get-bank command stores its reply byte unmasked in RES0 and is done. -/
theorem exec_get {i : Instr} {s : State} {r : Byte} {rest : List Byte} (hi : i.response = .byte) (hr : Ready s)
    (hq : Quiet s) (hw : i.wellFormed = true) (hp : HasPayload i [] s) (hd : s.d2h = r :: rest) :
    exec i s = .next { s with
      eng := { s.eng.sent i [] with res := setResults s.eng.res 0 [r], status := s.eng.status.after false }
      h2d := s.h2d ++ frameOf i [], d2h := rest } := by
  have hafter : (responding s i []).eng.afterRx r
      = { s.eng.sent i [] with res := setResults s.eng.res 0 [r], status := s.eng.status.after false } := by
    have hres : (s.eng.sent i []).res = s.eng.res := withOperands_res s.eng i
    rw [← hres, ← sent_atRest i [] hr.idle, responding, hi]
    rfl
  rw [exec_of_last_byte hr hq hw hp hd (by rw [hafter]; exact sent_ph i [] hr.idle), hafter]
  rfl

/-- Settles O26: each of the three commands takes its one reply byte. -/
theorem getBankCommandsStoreTheReply : Obligations.GetBankCommandsStoreTheReply := fun _ _ _ hr hq hd =>
  ⟨exec_get rfl hr hq rfl rfl hd, exec_get rfl hr hq rfl rfl hd, exec_get rfl hr hq rfl rfl hd⟩

/-! ### Checksummed responses -/

theorem sent_command (e : Engine) (i : Instr) (p : List Byte) (q : Phase) :
    ({ e.sent i p with ph := q } : Engine).command = some i := by cases i <;> rfl

/-- Where payload bytes are stored, field by field (10_state R35, R39). -/
theorem stored_eq (e : Engine) (k : Nat) (p : List Byte) :
    e.stored k p = { e with
      res := if e.cur = 1 then setResults e.res k p else e.res
      rxbuf := if e.cur = 1 then e.rxbuf else e.rxbuf.writeAt ((span k p.length).zip p) } := by
  unfold Engine.stored
  split_ifs <;> rfl

/-- 41_framer R159: a checksummed response of which the bytes `p` have come, none included. -/
def Engine.holding (e : Engine) (i : Instr) (p : List Byte) : Engine :=
  { e.sent i [] with
    res := if selector i = 1 then setResults (e.sent i []).res 0 p else (e.sent i []).res
    rxbuf := if selector i = 1 then (e.sent i []).rxbuf else (e.sent i []).rxbuf.writeAt ((span 0 p.length).zip p)
    rxsum := sum8 p, idx := BitVec.ofNat 16 p.length
    ph := if p.length = payloadBack i then .rxCsum else .rxPay }

theorem holding_nil {e : Engine} {i : Instr} (hpos : 0 < payloadBack i) :
    e.holding i [] = { e.sent i [] with ph := .rxPay } := by
  unfold Engine.holding
  rw [if_neg (show ¬ ([] : List Byte).length = payloadBack i from hpos.ne)]
  split_ifs <;> rfl

/-- The state in which the request of `i` has been sent and the bytes `p` of its response have come. -/
def receiving (s : State) (i : Instr) (p rest : List Byte) : State :=
  { s with h2d := s.h2d ++ frameOf i [], d2h := rest, eng := s.eng.holding i p }

/-- A command with a checksummed response, up to the payload bytes that wait in `d2h` (41_framer R159). -/
theorem exec_payload {i : Instr} {s : State} {p rest : List Byte} (hphase : Response.phase i.response = .rxPay)
    (hpos : 0 < payloadBack i) (hr : Ready s) (hq : Quiet s) (hw : i.wellFormed = true) (hp : HasPayload i [] s)
    (hd : s.d2h = p ++ rest) (hl : p.length ≤ payloadBack i) :
    ∃ n, 200000 ≤ n ∧ exec i s = poll n (receiving s i p rest) := by
  obtain ⟨n, hn, he⟩ := exec_ready hr hq hw hp
  have hbuf := bufBytes_le
  have hback := payloadBack_le_bufBytes hw
  rcases eq_or_ne p [] with rfl | hne
  · refine ⟨n, by omega, ?_⟩
    rw [he, ← show s.d2h = rest from hd, receiving, holding_nil hpos, responding, hphase]
  · have hc := sent_command s.eng i [] .rxPay
    have hrlen := rlen_eq hc
    have hpoll := poll_payload (n - p.length) p 0
      { s with h2d := s.h2d ++ frameOf i [], eng := { s.eng.sent i [] with ph := .rxPay } } rest hq hc rfl rfl
      (by rw [hrlen]; omega) (by rw [hrlen]; omega) hd hne
    refine ⟨n - p.length, by omega, ?_⟩
    rw [Nat.sub_add_cancel (by omega)] at hpoll
    rw [he, responding, hphase, hpoll, hrlen, stored_eq, Nat.zero_add]
    refine congrArg (poll _) (congrArg (fun e => ({ s with h2d := _, d2h := rest, eng := e } : State)) ?_)
    rw [show ({ s.eng.sent i [] with ph := .rxPay } : Engine).rxsum + sum8 p = sum8 p from BitVec.zero_add _]
    rfl

/-- 41_framer R160: the checksum byte of a `ZR` response, right or not enforced, completes the transfer. -/
theorem afterRx_csum_zr {e : Engine} {n : Byte} {bh : Bank} {ah c : Byte} {p : List Byte} (hph : e.ph = .idle)
    (hp : p.length = 256 * n.toNat) (hc : c = sum8 p ∨ e.csumEnforce = false) :
    (e.holding (.zr n bh ah) p).afterRx c = { e.sent (.zr n bh ah) [] with
      rxbuf := e.rxbuf.writeAt ((span 0 (256 * n.toNat)).zip p), rxsum := sum8 p, rxcs := c
      status := e.status.after (decide (c ≠ sum8 p)) } := by
  have hend : (e.holding (.zr n bh ah) p).ph = .rxCsum := if_pos hp
  rw [Engine.afterRx, hend, ← hp, ← sent_atRest (.zr n bh ah) [] hph]
  unfold Engine.afterCsum
  by_cases heq : c = sum8 p
  · rw [if_pos (show c = (e.holding (.zr n bh ah) p).rxsum from heq), decide_eq_false (not_not_intro heq)]
    rfl
  · have hfree : ¬ (e.holding (.zr n bh ah) p).csumEnforce = true := by
      rw [show (e.holding (.zr n bh ah) p).csumEnforce = e.csumEnforce from rfl, hc.resolve_left heq]
      decide
    rw [if_neg (show ¬ c = (e.holding (.zr n bh ah) p).rxsum from heq), if_neg hfree, decide_eq_true heq]
    rfl

theorem payloadBack_zr_pos {n : Byte} (h : legalPages n = true) (bh : Bank) (ah : Byte) :
    0 < payloadBack (.zr n bh ah) := by
  have hn := ((legalPages_iff n).1 h).1
  simp only [payloadBack, Instr.response]
  omega

/-- Settles O24: the payload that waits is stored, and the checksum byte after it completes the transfer. -/
theorem zrStoresThePages : Obligations.ZrStoresThePages := by
  intro s n bh ah p rest c hr hq hn hp hd hc
  obtain ⟨m, hm, he⟩ := exec_payload (i := .zr n bh ah) rfl (payloadBack_zr_pos hn bh ah) hr hq hn rfl hd hp.le
  obtain ⟨m, rfl⟩ : ∃ k, m = k + 1 := ⟨m - 1, by omega⟩
  have hafter := afterRx_csum_zr (bh := bh) (ah := ah) hr.idle hp hc
  have hg : (s.eng.holding (.zr n bh ah) p).ph.group = .receive := congrArg Phase.group (if_pos hp)
  have hend : ((s.eng.holding (.zr n bh ah) p).afterRx c).ph = .idle := by
    rw [hafter]
    exact sent_ph (.zr n bh ah) [] hr.idle
  rw [he, poll_receive m (s := receiving s (.zr n bh ah) p (c :: rest)) hq hg rfl, poll_idle _ hend]
  simp only [receiving, State.putD2h, State.putEng, hafter, frameOf_zr]

/-! ### Responses that are cut short -/

/-- 40_transport R128: with nothing to receive and no responder, a receive group runs out its time. -/
theorem poll_times_out {n : Nat} {s : State} (hq : Quiet s) (hpeer : s.peer = .unconstrained)
    (hg : s.eng.ph.group = .receive) (hd : s.d2h = []) (hdlt : s.eng.dlt = 0) (hn : 65536 ≤ n) :
    poll n s = .next { s with
      eng := { s.eng with
        dlt := if s.eng.deadline = 0 then 1 else s.eng.deadline, ph := .idle
        status := s.eng.status.raised .ioRead } } := by
  have hlt := s.eng.deadline.isLt
  have hzero : s.eng.dlt.toNat = 0 := by rw [hdlt]; rfl
  exact poll_silent (max s.eng.deadline.toNat 1 - 1) n s hq hg hd (by simp [deviceEnabled, hpeer]) (by omega)
    (by omega) (by omega)

/-- A command with a checksummed response of which too little comes (60_exceptions R289). -/
theorem exec_cut_short {i : Instr} {s : State} (hphase : Response.phase i.response = .rxPay)
    (hpos : 0 < payloadBack i) (hr : Ready s) (hq : Quiet s) (hpeer : s.peer = .unconstrained)
    (hw : i.wellFormed = true) (hp : HasPayload i [] s) (hl : s.d2h.length ≤ payloadBack i) :
    exec i s = .next { s with
      h2d := s.h2d ++ frameOf i [], d2h := []
      eng := { s.eng.holding i s.d2h with
        dlt := if (s.eng.holding i s.d2h).deadline = 0 then 1 else (s.eng.holding i s.d2h).deadline, ph := .idle
        status := s.eng.status.failed false .ioRead } } := by
  obtain ⟨m, hm, he⟩ := exec_payload hphase hpos hr hq hw hp (s.d2h.append_nil).symm hl
  have hg : (s.eng.holding i s.d2h).ph.group = .receive := by
    simp only [Engine.holding]
    split_ifs <;> rfl
  rw [he, poll_times_out (s := receiving s i s.d2h []) hq hpeer hg rfl rfl (by omega)]
  rfl

/-- Polling takes raw bytes of `VV` that are not the last (41_framer R158). -/
theorem poll_raw (n : Nat) : ∀ (p : List Byte) (k : Nat) (s : State) (rest : List Byte), Quiet s →
    s.eng.ph = .rxRaw → s.eng.idx = BitVec.ofNat 16 k → k + p.length < 3 → s.d2h = p ++ rest →
    poll (n + p.length) s = poll n { s with
      d2h := rest, eng := { s.eng with res := setResults s.eng.res k p, idx := BitVec.ofNat 16 (k + p.length) } } := by
  intro p
  induction p with
  | nil =>
    intro k s rest hq hph hk hl hd
    rw [← show s.d2h = rest from hd]
    simp only [setResults, List.length_nil, Nat.add_zero, ← hk]
  | cons b p ih =>
    intro k s rest hq hph hk hl hd
    rw [List.length_cons] at hl
    rw [List.cons_append] at hd
    have hk' : s.eng.idx.toNat = k := by rw [hk, BitVec.toNat_ofNat]; omega
    have hk1 : s.eng.idx + 1 = BitVec.ofNat 16 (k + 1) := by
      rw [hk, BitVec.ofNat_add]
      rfl
    have hafter : s.eng.afterRx b
        = { s.eng with res := s.eng.res.setIfInBounds k b, idx := BitVec.ofNat 16 (k + 1) } := by
      rw [Engine.afterRx, hph]
      simp only [Engine.afterRaw, hk', hk1, if_pos (show k + 1 < 3 by omega)]
      rfl
    have hrest := ih (k + 1) ((s.putD2h (p ++ rest)).putEng (s.eng.afterRx b)) rest hq (by rw [hafter]; exact hph)
      (by rw [hafter]; rfl) (by omega) rfl
    rw [List.length_cons, ← Nat.add_assoc, poll_receive _ hq (by rw [hph]; rfl) hd, hrest, hafter,
      show k + 1 + p.length = k + (p.length + 1) by omega]
    rfl

/-- A `VV` of which too little comes (60_exceptions R289). -/
theorem exec_vv_cut_short {s : State} (hr : Ready s) (hq : Quiet s) (hpeer : s.peer = .unconstrained)
    (hl : s.d2h.length < 3) :
    exec .vv s = .next { s with
      h2d := s.h2d ++ [0x56, 0x56], d2h := []
      eng := { s.eng.sent .vv [] with
        res := setResults s.eng.res 0 s.d2h, idx := BitVec.ofNat 16 s.d2h.length
        dlt := if s.eng.deadline = 0 then 1 else s.eng.deadline, ph := .idle
        status := s.eng.status.failed false .ioRead } } := by
  obtain ⟨n, hn, he⟩ := exec_ready (i := .vv) (p := []) hr hq rfl rfl
  have hraw := poll_raw (n - s.d2h.length) s.d2h 0 (responding s .vv []) [] hq rfl rfl (by omega)
    (s.d2h.append_nil).symm
  rw [Nat.sub_add_cancel (by omega)] at hraw
  rw [he, hraw]
  refine (poll_times_out ?quiet ?peer ?receives ?empty ?timer ?enough).trans ?_
  case quiet => exact hq
  case peer => exact hpeer
  case receives | empty | timer => rfl
  case enough => omega
  rw [Nat.zero_add]
  rfl

/-- Settles O32: each command stores what waits, and then its receive group runs out its time. -/
theorem truncatedReadKeepsWhatArrived : Obligations.TruncatedReadKeepsWhatArrived := by
  intro s hr hq hpeer
  refine ⟨fun n bh ah hn hl => ?_, fun hl => ?_, fun hl => ?_⟩
  · rw [exec_cut_short (i := .zr n bh ah) rfl (payloadBack_zr_pos hn bh ah) hr hq hpeer hn rfl hl, frameOf_zr,
      ← sent_atRest (.zr n bh ah) [] hr.idle]
    rfl
  · rw [exec_vv_cut_short hr hq hpeer hl, ← sent_atRest .vv [] hr.idle]
  · rw [exec_cut_short (i := .ns) rfl (by decide) hr hq hpeer rfl rfl hl, ← sent_atRest .ns [] hr.idle]
    rfl

/-! ### A payload byte that was never written -/

/-- 41_framer R153: a payload byte that is not the last moves IDX on. -/
theorem afterTx_pay {e : Engine} {i : Instr} {k : Nat} (b : Byte) (hc : e.command = some i) (hph : e.ph = .txPay)
    (hk : e.idx.toNat = k) (hl : k + 1 < i.payloadLen) :
    e.afterTx b = (e.summedTx b).moveTo .txPay (e.idx + 1) := by
  rw [Engine.afterTx, hph]
  simp only [Engine.afterPay, plen_eq hc, hk, if_pos hl, hph]

/-- A transmit phase whose byte has no value stops the wait (10_state R38; log 9). -/
theorem poll_unwritten (n : Nat) {s : State} (hq : Quiet s) (hg : s.eng.ph.group = .transmit)
    (hbyte : s.eng.txByte = none) : poll (n + 1) s = .fault .txbufUnwritten := by
  refine poll_fault _ (ne_idle_of_transmit hg) ?_
  rw [pollStep_quiet hq, autoStep, if_pos (by simp [byteEnabled, hg])]
  simp [byteStep, hg, hbyte]

/-- Polling sends payload bytes up to the one that has no value, and stops there (10_state R38; log 9). -/
theorem poll_pay_fault {i : Instr} : ∀ (m n k : Nat) (s : State), Quiet s → s.eng.command = some i →
    s.eng.ph = .txPay → s.eng.idx.toNat = k → k + m < i.payloadLen → s.eng.txbuf.read (k + m) = none →
    poll (n + m + 1) s = .fault .txbufUnwritten := by
  intro m
  induction m with
  | zero =>
    intro n k s hq _ hph hk _ hread
    exact poll_unwritten n hq (by rw [hph]; rfl) (by simpa [Engine.txByte, hph, hk] using hread)
  | succ m ih =>
    intro n k s hq hc hph hk hl hread
    have hle := payloadLen_le i
    have hg : s.eng.ph.group = .transmit := by rw [hph]; rfl
    cases hbyte : s.eng.txByte with
    | none => exact poll_unwritten _ hq hg hbyte
    | some b =>
      have hafter := afterTx_pay b hc hph hk (by omega)
      rw [show n + (m + 1) + 1 = (n + m + 1) + 1 by omega, poll_transmit _ hq hg hbyte, hafter]
      refine ih n (k + 1) _ ?quiet hc rfl (succ_toNat _ hk (by omega)) (by omega) ?unwritten
      case quiet => exact hq
      case unwritten => rwa [Nat.add_right_comm]

/-- A `ZW` on a block at rest, when its header has been sent (41_framer R152). -/
theorem exec_zw_header {s : State} {n : Byte} (bh : Bank) (ah : Byte) (hr : Ready s) (hq : Quiet s)
    (hn : legalPages n = true) :
    ∃ m, 300000 ≤ m ∧ exec (.zw n bh ah) s = poll m { s with
      h2d := s.h2d ++ encode (.zw n bh ah)
      eng := { s.eng.sent (.zw n bh ah) [] with ph := .txPay } } := by
  obtain ⟨ho, hph, hb, hf⟩ := hr
  have hpos : 0 < (Instr.zw n bh ah).payloadLen := by
    have hone := ((legalPages_iff n).1 hn).1
    simp only [Instr.payloadLen]
    omega
  have haccept := accept_accepted (not_refuses (i := .zw n bh ah) ho hf hn)
  set t := s.putEng ((s.eng.withOperands (.zw n bh ah)).accept (selector (.zw n bh ah))) with ht
  rw [haccept] at ht
  have hlimit : 400000 ≤ pollLimit t := by
    simp only [pollLimit]
    omega
  have hheader : poll (pollLimit t - 5 + 5) t = poll (pollLimit t - 5) { t with
      h2d := t.h2d ++ encode (.zw n bh ah)
      eng := t.eng.hdrSent (t.eng.txsum + sum8 (encode (.zw n bh ah))) } :=
    poll_hdr _ 4 0 t (by rw [ht]; exact hq) (by rw [ht]; rfl) (by rw [ht]; rfl) (by rw [ht]; rfl) rfl
  have hplen : 0 < t.eng.plen := by rw [ht]; exact hpos
  refine ⟨pollLimit t - 5, by omega, ?_⟩
  rw [exec_free _ hb, awaitIdle, ← Nat.sub_add_cancel (show 5 ≤ pollLimit t by omega), hheader, Engine.hdrSent,
    if_pos hplen, ht]
  simp [Engine.sent, State.putEng]

/-- Settles O35: the header is sent, and then the payload up to the byte without a value. -/
theorem unwrittenPayloadStopsZw : Obligations.UnwrittenPayloadStopsZw := by
  intro s n bh ah k hr hq hn hk hread
  obtain ⟨m, hm, he⟩ := exec_zw_header bh ah hr hq hn
  have hle := payloadLen_le (.zw n bh ah)
  have hk' : 0 + k < (Instr.zw n bh ah).payloadLen := by rwa [Nat.zero_add]
  obtain ⟨j, rfl⟩ : ∃ j, m = j + k + 1 := ⟨m - k - 1, by omega⟩
  rw [he]
  exact poll_pay_fault k j 0 _ hq rfl rfl rfl hk' (by rwa [Nat.zero_add])

end Sys2Proof.Machine
end

section
/-! PROOFS. The host's port: what each register and buffer access does, and what OPEN, CLOSE and the reset input do. -/

namespace Sys2Proof.Machine

/-! ### Masked values -/

/-- 10_state R21: the low bits of a value, as a number. -/
theorem setWidth_eq_ofNat_mod {w : Nat} (v : HostWord) : v.setWidth w = BitVec.ofNat w (v.toNat % 2 ^ w) := by
  apply BitVec.eq_of_toNat_eq
  rw [BitVec.toNat_setWidth, BitVec.toNat_ofNat, Nat.mod_mod]

/-- 10_state R21: a value cut to its field and read back is the value under the field's mask. -/
theorem setWidth_setWidth_eq_and (w : Nat) (v : HostWord) (hw : w < 32) :
    (v.setWidth w).setWidth 32 = v &&& BitVec.ofNat 32 (2 ^ w - 1) := by
  have hpow : 2 ^ w < 2 ^ 32 := Nat.pow_lt_pow_right Nat.one_lt_two hw
  apply BitVec.eq_of_toNat_eq
  rw [BitVec.toNat_setWidth, BitVec.toNat_setWidth, BitVec.toNat_and, BitVec.toNat_ofNat,
    Nat.mod_eq_of_lt (a := 2 ^ w - 1) (by omega), Nat.and_two_pow_sub_one_eq_mod,
    Nat.mod_eq_of_lt ((Nat.mod_lt _ (Nat.two_pow_pos w)).trans hpow)]

/-- 30_encoding R96, R104: the bank byte of a written bank. -/
theorem byteOfBank_setWidth (v : HostWord) : byteOfBank (v.setWidth 3) = BitVec.ofNat 8 (v.toNat % 8) := by
  apply BitVec.eq_of_toNat_eq
  rw [byteOfBank_toNat, BitVec.toNat_setWidth, BitVec.toNat_ofNat]
  omega

/-! ### Statements on writes -/

/-- Settles O9: the bank registers keep three bits, and a line runs as the command of its masked operands. -/
theorem writtenBanksWrapInTheFrame : Obligations.WrittenBanksWrapInTheFrame := by
  refine ⟨fun s v hb => ⟨?_, ?_⟩, fun s n bh ah b => ?_⟩
  · rintro sel c (⟨rfl, rfl⟩ | ⟨rfl, rfl⟩ | ⟨rfl, rfl⟩)
    all_goals
      rw [writeReg, lockedWrite_free hb, ← byteOfBank_setWidth]
      rfl
  · rintro sel c (⟨rfl, rfl⟩ | ⟨rfl, rfl⟩)
    all_goals
      rw [writeReg, lockedWrite_free hb, ← byteOfBank_setWidth]
      rfl
  · have h3 (x : HostWord) : x.setWidth 3 = BitVec.ofNat 3 (x.toNat % 8) := setWidth_eq_ofNat_mod x
    have h8 (x : HostWord) : x.setWidth 8 = BitVec.ofNat 8 (x.toNat % 256) := setWidth_eq_ofNat_mod x
    simp only [← h3, ← h8]
    exact ⟨runLine_eq_exec .., runLine_eq_exec .., runLine_eq_exec .., runLine_eq_exec .., runLine_eq_exec ..⟩

/-- Settles O12: the lock turns each of these writes into OVR. -/
theorem lockedWritesAreDropped : Obligations.LockedWritesAreDropped := by
  intro s v k hb
  refine ⟨fun r hr => ?_, fun hk => ?_, fun hv => ?_⟩
  · simp only [List.mem_cons, List.not_mem_nil, or_false] at hr
    rcases hr with rfl | rfl | rfl | rfl | rfl | rfl
    all_goals
      rw [writeReg, lockedWrite_busy hb]
      rfl
  · rw [writeTxbuf, if_pos hk]
    exact lockedWrite_busy hb
  · have hdropped : writeCtrl s v = overrun s := by simp [writeCtrl, hb, hv]
    exact hdropped

/-- Settles O28: every write of the line is dropped with OVR, and what is left of it is the wait. -/
theorem busyLineOnlyWaits : Obligations.BusyLineOnlyWaits := fun _ i hb => exec_busy i hb

/-! ### The register map -/

/-- 10_state R31: the value of CTRL, bit by bit. -/
theorem ctrlWord_eq (e : Engine) :
    e.ctrlWord = (if e.csumEnforce then 2 else 0) + (if e.isOpen then 1 else 0) := by
  unfold Engine.ctrlWord
  cases e.csumEnforce <;> cases e.isOpen <;> rfl

theorem regOfNo_res {k : Nat} (hk : k < 9) : regOfNo (8 + k) = some (.res k) := by
  interval_cases k <;> rfl

theorem regOfNo_none {no : Nat} (h : 20 ≤ no) : regOfNo no = none := by
  unfold regOfNo
  split
  case h_12 => exact if_neg (by omega)
  all_goals omega

/-- 10_state R21: the registers of numbers 6 and 8 to 19 are read-only. -/
theorem writeNo_readOnly {no : Nat} (h : no = 6 ∨ 8 ≤ no ∧ no ≤ 19) (v : HostWord) (s : State) :
    writeNo no v s = s := by
  obtain rfl | ⟨hlo, hhi⟩ := h
  · rfl
  · interval_cases no <;> rfl

/-- 10_state R35: a result register that is read while no operation is in flight. -/
theorem readNo_res {s : State} (hb : s.eng.status.busy = false) {k : Nat} (hk : k < 9) :
    readNo (8 + k) s = { s with readData := s.eng.res[k].setWidth 32 } := by
  have hget : s.eng.res.getD k 0 = s.eng.res[k] := by simp [Vector.getD, hk]
  rw [readNo, regOfNo_res hk]
  simp only [readReg, hb, hget]
  rfl

theorem readTxbuf_written {s : State} {k : Nat} {b : Byte} (hk : k < Config.bufBytes)
    (hread : s.eng.txbuf.read k = some b) : readTxbuf k s = .next { s with readData := b.setWidth 32 } := by
  rw [readTxbuf, if_pos hk, hread]
  rfl

theorem readRxbuf_written {s : State} {k : Nat} {b : Byte} (hk : k < Config.bufBytes)
    (hb : s.eng.status.busy = false) (hread : s.eng.rxbuf.read k = some b) :
    readRxbuf k s = .next { s with readData := b.setWidth 32 } := by
  rw [readRxbuf, if_pos hk, hb, hread]
  rfl

/-- 10_state R23 to R26, R33: the operand registers and DEADLINE read back under the mask of their width. -/
theorem read_back_operands {s : State} (v : HostWord) (hb : s.eng.status.busy = false) :
    readReg .npages (writeReg .npages v s)
      = { s with eng := { s.eng with npages := v.setWidth 8 }, readData := v &&& 0xFF } ∧
    readReg .bankhi (writeReg .bankhi v s)
      = { s with eng := { s.eng with bankhi := v.setWidth 3 }, readData := v &&& 7 } ∧
    readReg .addrhi (writeReg .addrhi v s)
      = { s with eng := { s.eng with addrhi := v.setWidth 8 }, readData := v &&& 0xFF } ∧
    readReg .bank (writeReg .bank v s)
      = { s with eng := { s.eng with bank := v.setWidth 3 }, readData := v &&& 7 } ∧
    readReg .deadline (writeReg .deadline v s)
      = { s with eng := { s.eng with deadline := v.setWidth 16 }, readData := v &&& 0xFFFF } := by
  have h3 : (v.setWidth 3).setWidth 32 = v &&& 7 := setWidth_setWidth_eq_and 3 v (by omega)
  have h8 : (v.setWidth 8).setWidth 32 = v &&& 0xFF := setWidth_setWidth_eq_and 8 v (by omega)
  have h16 : (v.setWidth 16).setWidth 32 = v &&& 0xFFFF := setWidth_setWidth_eq_and 16 v (by omega)
  refine ⟨?_, ?_, ?_, ?_, ?_⟩
  all_goals
    simp only [writeReg, lockedWrite_free hb, readReg, putEng_eng, h3, h8, h16]
    rfl

/-- Settles O13: the map of the register numbers, and each register's own read and write. -/
theorem registersReadBackMasked : Obligations.RegistersReadBackMasked :=
  ⟨fun _ v hb => read_back_operands v hb,
    fun s v => ⟨rfl, rfl, rfl, rfl, rfl, rfl, rfl, fun _ hno => congrArg Host.Outcome.next (writeNo_readOnly hno v s)⟩,
    fun s => ⟨rfl, rfl, rfl, rfl, rfl, by rw [← ctrlWord_eq]; rfl, rfl, rfl,
      fun hb _ hk => congrArg Host.Outcome.next (readNo_res hb hk), rfl, rfl, rfl,
      fun _ _ hk => ⟨readTxbuf_written hk, readRxbuf_written hk⟩⟩⟩

/-- Settles O14: a write of TXBUF stores the low eight bits at its index and nowhere else. -/
theorem txbufReadsAsWritten : Obligations.TxbufReadsAsWritten := by
  intro s k v hb
  refine ⟨fun hk => ⟨s.eng.txbuf.write k (v.setWidth 8), ?_, fun j => ?_, ?_⟩, fun hk => ?_⟩
  · have hw : writeTxbuf k v s = s.putEng { s.eng with txbuf := s.eng.txbuf.write k (v.setWidth 8) } := by
      rw [writeTxbuf, if_pos hk, lockedWrite_free hb]
    exact congrArg Host.Outcome.next hw
  · have h8 : v.setWidth 8 = BitVec.ofNat 8 (v.toNat % 256) := setWidth_eq_ofNat_mod v
    rw [read_write, h8]
  · have h8 : (v.setWidth 8).setWidth 32 = v &&& 0xFF := setWidth_setWidth_eq_and 8 v (by omega)
    rw [← h8]
    exact readTxbuf_written hk (read_write_same ..)
  · have hw : writeTxbuf k v s = s := if_neg (Nat.not_lt.2 hk)
    exact congrArg Host.Outcome.next hw

/-! ### Reads without a value -/

/-- 93 U3: a free byte, zero-extended. -/
theorem returnsAny_byte (s : State) :
    returnsAny s 8 = { s with readData := Config.anyRead s.free &&& 0xFF, free := s.free + 1 } := by
  have h8 : ((Config.anyRead s.free).setWidth 8).setWidth 32 = Config.anyRead s.free &&& 0xFF :=
    setWidth_setWidth_eq_and 8 _ (by omega)
  rw [returnsAny, h8]

/-- 93 U9: a free word. -/
theorem returnsAny_word (s : State) :
    returnsAny s 32 = { s with readData := Config.anyRead s.free, free := s.free + 1 } := by
  rw [returnsAny, BitVec.setWidth_eq, BitVec.setWidth_eq]

/-- 10_state R35: a result register has no value while BUSY. -/
theorem readReg_res_busy {s : State} (hb : s.eng.status.busy = true) (k : Nat) :
    readReg (.res k) s = returnsAny s 8 := by
  rw [readReg, hb]
  rfl

/-- 10_state R39, 93 U3: RXBUF has no value while BUSY, and a buffer has none past its end. -/
theorem readRxbuf_free {s : State} {k : Nat} (h : s.eng.status.busy = true ∨ Config.bufBytes ≤ k) :
    readRxbuf k s = .next (returnsAny s 8) := by
  unfold readRxbuf
  split_ifs with hk hb
  · rfl
  · exact absurd (h.resolve_right (Nat.not_le.2 hk)) hb
  · rfl

/-- Settles O15: each of these reads is the read of a free value. -/
theorem readsWithoutAValueAreFree : Obligations.ReadsWithoutAValueAreFree := by
  intro s no k v
  rw [← returnsAny_byte, ← returnsAny_word]
  refine ⟨fun hno => ?_, fun hb => ⟨readReg_res_busy hb k, readRxbuf_free (.inl hb)⟩, fun hb hk => ?_, fun hk => ?_⟩
  · rw [writeNo, readNo, regOfNo_none hno]
    exact ⟨rfl, rfl⟩
  · rw [readNo, regOfNo_res hk]
    exact readReg_res_busy hb k
  · exact ⟨if_neg (Nat.not_lt.2 hk), readRxbuf_free (.inr hk)⟩

/-! ### STATUS -/

/-- 10_state R32: STATUS as a number, flag by flag. -/
theorem status_word_toNat (st : Status) :
    st.word.toNat = st.busy.toNat + 2 * st.done.toNat + 4 * st.fault.toNat + 8 * st.csm.toNat
      + 16 * st.ovr.toNat + 32 * st.err.code.toNat := by
  obtain ⟨busy, done, fault, csm, ovr, err⟩ := st
  revert busy done fault csm ovr
  cases err <;> decide

/-- Settles O16: the read returns the byte of the flags. -/
theorem statusReadsAsItsFlags : Obligations.StatusReadsAsItsFlags := by
  intro s
  have hread : (readReg .status s).readData.toNat = s.eng.status.word.toNat :=
    BitVec.toNat_setWidth_of_le (by omega)
  rw [hread, status_word_toNat]
  cases s.eng.status.err <;> rfl

/-! ### OPEN, CLOSE and reset -/

/-- Settles O17: on a closed block at rest a CTRL write with bit 0 set opens the link. -/
theorem openClearsTheFlags : Obligations.OpenClearsTheFlags := by
  intro s ho hph hb
  have hopen (v : HostWord) (hv : v.getLsbD 0 = true) :
      writeCtrl s v = (openLink s).putEng { (openLink s).eng with csumEnforce := v.getLsbD 1 } := by
    rw [writeCtrl, hb, ho, hv]
    rfl
  have hline : hostOpen s = openLink s := by
    have hbit0 : (s.eng.ctrlWord ||| 1).getLsbD 0 = true := by simp
    have hbit1 : (s.eng.ctrlWord ||| 1).getLsbD 1 = s.eng.csumEnforce := by
      unfold Engine.ctrlWord
      cases s.eng.csumEnforce <;> cases s.eng.isOpen <;> rfl
    rw [hostOpen, hopen _ hbit0, hbit1]
    rfl
  refine ⟨hline, fun v hv => ?_⟩
  rw [hline]
  exact hopen v hv

/-- Under the invariant CLOSE ends at IDLE with BUSY = 0 whether an operation was in flight or not. -/
theorem closed_eq {e : Engine} (h : e.Ok) :
    e.closed = { e with isOpen := false, ph := .idle, status := { e.status with busy := false } } := by
  unfold Engine.closed
  split_ifs with hph
  · have hb : e.status.busy = false := by
      rw [← Bool.not_eq_true, h.busy]
      exact not_not_intro hph
    rw [← hph, ← hb]
  · rfl

/-- Settles O18: a CTRL write that clears bit 0 closes the link, and bit 1 is taken only while idle. -/
theorem closeDropsTheOperation : Obligations.CloseDropsTheOperation := by
  intro s v hok
  have hbusy (w : HostWord) (ho : s.eng.isOpen = true) (hw : w.getLsbD 0 = false) (hb : s.eng.status.busy = true) :
      writeCtrl s w = closeLink s := by
    rw [writeCtrl, hb, ho, hw]
    rfl
  have hidle (w : HostWord) (ho : s.eng.isOpen = true) (hw : w.getLsbD 0 = false) (hb : s.eng.status.busy = false) :
      writeCtrl s w = (closeLink s).putEng { (closeLink s).eng with csumEnforce := w.getLsbD 1 } := by
    rw [writeCtrl, hb, ho, hw]
    rfl
  have hline (ho : s.eng.isOpen = true) : hostClose s = closeLink s := by
    have hbit0 : (s.eng.ctrlWord &&& 2).getLsbD 0 = false := by simp
    have hbit1 : (s.eng.ctrlWord &&& 2).getLsbD 1 = s.eng.csumEnforce := by
      unfold Engine.ctrlWord
      cases s.eng.csumEnforce <;> cases s.eng.isOpen <;> rfl
    cases hb : s.eng.status.busy
    · rw [hostClose, hidle _ ho hbit0 hb, hbit1, closeLink, closed_eq hok]
      rfl
    · exact hbusy _ ho hbit0 hb
  refine ⟨fun ho => ?_, fun ho hv hb => ?_, fun ho hv hb => ?_, fun hv hb => ?_⟩
  · rw [hline ho, closeLink, closed_eq hok]
    rfl
  · rw [hline ho]
    exact hbusy v ho hv hb
  · rw [hline ho]
    exact hidle v ho hv hb
  · simp only [writeReg, writeCtrl, hb, hv]
    rfl

theorem reset_status_word : Status.reset.word = 0 := by decide

/-- Settles O19: the block after the reset input is the block at reset, and the rest but the call in progress stands. -/
theorem resetInputClearsTheBlock : Obligations.ResetInputClearsTheBlock := by
  intro s t h
  obtain rfl : resetBlock s = t := Host.Outcome.next.inj h
  exact ⟨rfl, rfl, rfl, rfl, rfl, rfl, rfl, reset_status_word, rfl, rfl, rfl, rfl, rfl, rfl,
    fun k => ⟨read_nil k, read_nil k⟩,
    resetBlock_h2d s, resetBlock_d2h s, resetBlock_dev s, resetBlock_fw s, resetBlock_fwOut s⟩

/-- Settles O20: each register reads its value of the reset table. -/
theorem resetStateHasTheTablesValues : Obligations.ResetStateHasTheTablesValues :=
  ⟨rfl, rfl, rfl, rfl, rfl, rfl, rfl, rfl, rfl, rfl, rfl, rfl, rfl⟩

end Sys2Proof.Machine
end

section
/-! PROOFS. The decoder reads every frame the engine builds, from the head of any queue. -/

namespace Sys2Proof

theorem getIoLetter_byteOfBank (b : Bank) : getIoLetter (byteOfBank b) = none := by
  revert b
  decide

theorem getEmuLetter_byteOfBank (b : Bank) : getEmuLetter (byteOfBank b) = none := by
  revert b
  decide

/-- 30_encoding R100: the header decoder reads an encoded header back, whatever follows it. -/
theorem decodeHeader_encode_append (i : Instr) (rest : List Byte) :
    decodeHeader (encode i ++ rest) = .ok (i, rest) := by
  cases i with
  | vv | ns | brr | bes | ber => rfl
  | zw n bh ah | zr n bh ah => simp [encode, decodeHeader, decodeAfterCode, decodeTransfer]
  | br b => simp [encode, decodeHeader, decodeAfterCode, decodeBank, getIoLetter_byteOfBank]
  | bs b => simp [encode, decodeHeader, decodeAfterCode, decodeBank]
  | be b => simp [encode, decodeHeader, decodeAfterCode, decodeBank, getEmuLetter_byteOfBank]

/-- 30_encoding R90: after its header, a checksummed frame is read back with its payload. -/
theorem decodeBody_checksummed {i : Instr} {payload : List Byte} (hpages : i.pages ≠ some 0)
    (hck : i.checksummed = true) (hl : payload.length = i.payloadLen) (rest : List Byte) :
    decodeBody i (payload ++ sum8 (encode i ++ payload) :: rest) = .ok (i, payload, rest) := by
  rw [decodeBody, if_neg hpages, if_pos hck, ← hl]
  simp

/-- 30_encoding R95, 46_device R254: a frame with a page count other than 0 is read back whole. -/
theorem decodeFrame_frameOf_append {i : Instr} {payload : List Byte} (hpages : i.pages ≠ some 0)
    (hl : payload.length = i.payloadLen) (rest : List Byte) :
    decodeFrame (frameOf i payload ++ rest) = .ok (i, payload, rest) := by
  rw [frameOf_eq]
  split_ifs with hck
  · rw [List.append_assoc, List.append_assoc, List.singleton_append, decodeFrame, decodeHeader_encode_append]
    exact decodeBody_checksummed hpages hck hl rest
  · obtain rfl : i = .vv := by cases i <;> simp_all [Instr.checksummed]
    obtain rfl := List.length_eq_zero_iff.1 hl
    rfl

end Sys2Proof
end

section
/-! PROOFS. Device memory: pages that were stored at the addresses of a transfer are read back from them. -/

namespace Sys2Proof.Machine

/-- Bytes stored at distinct addresses read back as they were stored. -/
theorem readAt_writeAt_of_nodup : ∀ {as : List Nat} {bs : List Byte} (m : Memory), as.Nodup →
    as.length = bs.length → (m.writeAt (as.zip bs)).readAt as = some bs := by
  intro as
  induction as with
  | nil =>
    intro bs m _ hl
    obtain rfl := List.length_eq_zero_iff.1 hl.symm
    rfl
  | cons a as ih =>
    intro bs m hn hl
    obtain ⟨b, bs, rfl⟩ := List.exists_cons_of_length_eq_add_one hl.symm
    obtain ⟨ha, hn⟩ := List.nodup_cons.1 hn
    have hlen : as.length = bs.length := Nat.succ.inj hl
    have hread : ((m.write a b).writeAt (as.zip bs)).read a = some b := by
      rw [read_writeAt_other _ _ _ (by rwa [List.map_fst_zip hlen.le]), read_write_same]
    rw [List.zip_cons_cons, Memory.writeAt, readAt_cons, hread, ih _ hn hlen]
    rfl

/-- Where two memories read the same sequence, they hold the same byte at each of its addresses. -/
theorem read_eq_of_readAt_eq {m m' : Memory} {as : List Nat} {bs : List Byte} (h : m.readAt as = some bs)
    (h' : m'.readAt as = some bs) : ∀ a ∈ as, m.read a = m'.read a := by
  induction as generalizing bs with
  | nil => simp
  | cons x as ih =>
    rw [readAt_cons] at h h'
    obtain ⟨b, hb, h⟩ := Option.bind_eq_some_iff.1 h
    obtain ⟨bs, hbs, rfl⟩ := Option.map_eq_some_iff.1 h
    obtain ⟨b', hb', h'⟩ := Option.bind_eq_some_iff.1 h'
    obtain ⟨bs', hbs', heq⟩ := Option.map_eq_some_iff.1 h'
    obtain ⟨rfl, rfl⟩ := List.cons.inj heq
    intro a ha
    rcases List.mem_cons.1 ha with rfl | ha
    · rw [hb, hb']
    · exact ih hbs hbs' a ha

@[simp] theorem deviceSpan_length (p n : Nat) : (deviceSpan p n).length = n := by simp [deviceSpan]

/-- 46_device R261: the wrap at 2^19 meets no address twice. -/
theorem deviceSpan_nodup (p : Nat) {n : Nat} (hn : n ≤ Config.memBytes) : (deviceSpan p n).Nodup := by
  refine List.Nodup.map_on (fun x hx y hy hxy => ?_) List.nodup_range
  rw [List.mem_range] at hx hy
  exact Nat.ModEq.eq_of_lt_of_lt (Nat.ModEq.add_left_cancel' p hxy) (by omega) (by omega)

@[simp] theorem transferSpan_length (d : Device) (n : Byte) (bh : Bank) (ah : Byte) :
    (d.transferSpan n bh ah).length = 256 * n.toNat :=
  deviceSpan_length _ _

/-- 43_memory R180: a transfer is shorter than device memory, so its addresses are distinct. -/
theorem transferSpan_nodup (d : Device) (n : Byte) (bh : Bank) (ah : Byte) : (d.transferSpan n bh ah).Nodup := by
  have hn := n.isLt
  exact deviceSpan_nodup _ (show 256 * n.toNat ≤ 524288 by omega)

/-- Settles O57: the bank-high field is the page address divided by 2^16, and the addr-high field is bits 15 to 8. -/
theorem pageAddressInvertsItsFields : Obligations.PageAddressInvertsItsFields := by
  rintro a ⟨q, rfl⟩ ha
  have hq : q < 2048 := by
    have hmem : 256 * q < 524288 := ha
    omega
  have hbh : (bankHighOf (256 * q)).toNat = q / 256 := by
    rw [bankHighOf, BitVec.toNat_ofNat, Nat.shiftRight_eq_div_pow]
    omega
  have hah : (addrHighOf (256 * q)).toNat = q % 256 := by
    rw [addrHighOf, BitVec.toNat_ofNat, Nat.shiftRight_eq_div_pow]
    omega
  have hlow : (q % 256) <<< 8 < 2 ^ 16 := by
    rw [Nat.shiftLeft_eq]
    omega
  rw [pageAddress, hbh, hah, ← Nat.shiftLeft_add_eq_or_of_lt hlow, Nat.shiftLeft_eq, Nat.shiftLeft_eq]
  omega

end Sys2Proof.Machine
end

section
/-! PROOFS. How a response is taken byte by byte, and how a command runs against the reference responder. -/

namespace Sys2Proof.Machine

/-! ### The response, counted in bytes -/

/-- The bytes a receive phase still waits for (41_framer R156 to R160). -/
def Engine.awaited (e : Engine) : Nat :=
  match e.ph with
  | .rxAck | .rxByte | .rxCsum => 1
  | .rxRaw => 3 - e.idx.toNat
  | .rxPay => e.rlen - e.idx.toNat + 1
  | _ => 0

theorem awaited_eq_zero_iff {e : Engine} {i : Instr} (h : e.Runs i) : e.awaited = 0 ↔ e.ph.group ≠ .receive := by
  have hok := h.phase
  unfold Engine.phaseOk at hok
  unfold Engine.awaited
  cases hph : e.ph <;> simp_all [Phase.group]
  omega

/-- 41_framer R156 to R160: after a byte of the response PH is in the receive group or IDLE. -/
theorem afterRx_group {e : Engine} (b : Byte) (hg : e.ph.group ≠ .transmit) : (e.afterRx b).ph.group ≠ .transmit := by
  unfold Engine.afterRx
  split
  · unfold Engine.afterAck
    split_ifs <;> simp [Phase.group]
  · simp [Engine.afterByte, Phase.group]
  · unfold Engine.afterRaw
    split_ifs <;> simp_all [Phase.group]
  · unfold Engine.afterPayload
    split_ifs <;> simp_all [Phase.group]
  · unfold Engine.afterCsum
    split_ifs <;> simp [Phase.group]
  · exact hg

/-- Each byte of the response is one byte less to wait for (41_framer R156 to R160). -/
theorem afterRx_awaited {e : Engine} {i : Instr} (b : Byte) (h : e.Runs i) (hg : e.ph.group = .receive) :
    (e.afterRx b).awaited + 1 = e.awaited := by
  unfold Engine.afterRx
  split
  case h_1 hph =>
    unfold Engine.afterAck
    split_ifs <;> simp [Engine.awaited, hph]
  case h_2 hph => simp [Engine.awaited, Engine.afterByte, hph]
  case h_3 hph =>
    have hraw : e.cur = 0 ∧ e.idx.toNat < 3 := by simpa [Engine.phaseOk, hph] using h.phase
    unfold Engine.afterRaw
    split_ifs with hlast
    · simp only [Engine.awaited, moveTo_ph, moveTo_idx, hph, succ_toNat e.idx rfl (by omega)]
      omega
    · simp only [Engine.awaited, complete_ph, hph]
      omega
  case h_4 hph =>
    obtain ⟨hs, hlt, he⟩ := afterPayload_eq b h hph
    have hrlen : (e.storePay b).rlen = payloadBack i := rlen_eq ((storePay_command e b).trans h.command)
    rw [he]
    split_ifs with hlast
    · simp only [Engine.awaited, moveTo_ph, hph, rlen_eq h.command]
      omega
    · simp only [Engine.awaited, moveTo_ph, moveTo_idx, moveTo_rlen, summedRx_rlen, hph, hs, hrlen,
        rlen_eq h.command]
      omega
  case h_5 hph =>
    unfold Engine.afterCsum
    split_ifs <;> simp [Engine.awaited, hph]
  case h_6 hack hbyte hraw hpay hcsum => cases hph : e.ph <;> simp_all [Phase.group]

/-- 40_transport R130: while the response lies in `d2h` the engine takes it byte by byte, whatever lies elsewhere. -/
theorem poll_response {i : Instr} {rest : List Byte} (n : Nat) : ∀ (r : List Byte) (s : State), Quiet s →
    s.eng.Runs i → s.eng.ph.group ≠ .transmit → s.d2h = r ++ rest → r.length = s.eng.awaited →
    poll (n + r.length) s = .next { s with d2h := rest, eng := r.foldl Engine.afterRx s.eng } := by
  intro r
  induction r with
  | nil =>
    intro s _ hrun hg hd hl
    have hidle : s.eng.ph = .idle := by
      have hrx := (awaited_eq_zero_iff hrun).1 hl.symm
      cases hph : s.eng.ph <;> simp_all [Phase.group]
    rw [poll_idle _ hidle, ← show s.d2h = rest from hd]
    rfl
  | cons b r ih =>
    intro s hq hrun hg hd hl
    rw [List.length_cons] at hl
    have hrx : s.eng.ph.group = .receive := by
      by_contra hne
      have := (awaited_eq_zero_iff hrun).2 hne
      omega
    have hleft := afterRx_awaited b hrun hrx
    rw [List.length_cons, ← Nat.add_assoc, poll_receive _ hq hrx hd]
    exact ih ((s.putD2h (r ++ rest)).putEng (s.eng.afterRx b)) hq (Engine.Move.runs (.take b hrx) hrun)
      (afterRx_group b hg) rfl (by rw [putEng_eng]; omega)

theorem responding_runs {i : Instr} {s : State} (p : List Byte) (hw : i.wellFormed = true) :
    (responding s i p).eng.Runs i := by
  have hc : (responding s i p).eng.command = some i := sent_command s.eng i p _
  refine ⟨hc, hw, ?_⟩
  have hok := enterRx_phaseOk hc hw
  rwa [Engine.enterRx, rxPhase_of_command hc] at hok

theorem responding_not_transmit (s : State) (i : Instr) (p : List Byte) :
    (responding s i p).eng.ph.group ≠ .transmit := by
  rw [responding, response_phase_group]
  decide

/-- 41_framer R165: when the request has been sent, the whole response is still to come. -/
theorem responding_awaited (s : State) (i : Instr) (p : List Byte) :
    (responding s i p).eng.awaited = responseLen i := by
  cases i <;> rfl

theorem responseLen_le {i : Instr} (hw : i.wellFormed = true) : responseLen i ≤ 65281 := by
  have hb := bufBytes_le
  have hr := payloadBack_le_bufBytes hw
  unfold payloadBack at hr
  unfold responseLen
  split <;> simp_all
  omega

/-- A command whose whole response waits in `d2h` takes it, byte by byte, and is over (30_encoding R104). -/
theorem exec_response {i : Instr} {s : State} {p r rest : List Byte} (hr : Ready s) (hq : Quiet s)
    (hw : i.wellFormed = true) (hp : HasPayload i p s) (hd : s.d2h = r ++ rest) (hl : r.length = responseLen i) :
    exec i s = .next { s with
      h2d := s.h2d ++ frameOf i p, d2h := rest, eng := r.foldl Engine.afterRx (responding s i p).eng } := by
  obtain ⟨n, hn, he⟩ := exec_ready hr hq hw hp
  have hle := responseLen_le hw
  have hpoll := poll_response (n - r.length) r (responding s i p) hq (responding_runs p hw)
    (responding_not_transmit s i p) hd (by rw [responding_awaited, hl])
  rw [Nat.sub_add_cancel (by omega)] at hpoll
  rw [he, hpoll]
  rfl

/-! ### The responder's answer -/

/-- 46_device R255 to R266: the responder's answer to a frame is the whole response of its command. -/
theorem respond_length {d d' : Device} {i : Instr} {payload r : List Byte}
    (h : d.respond i payload = some (d', r)) : r.length = responseLen i := by
  rcases respond_cases h with ⟨_, hack, _, rfl⟩ | ⟨_, happly⟩
  · simp [responseLen, hack]
  · cases i with
    | zr n bh ah =>
      unfold Device.apply at happly
      simp only at happly
      split at happly
      · rename_i p hread
        cases happly
        rw [summed, List.length_append, readAt_length hread, transferSpan_length]
        rfl
      · cases happly
    | ns =>
      cases happly
      simp [summed, identityPayload, responseLen, Instr.response]
    | vv | zw | br | brr | bs | be | bes | ber =>
      cases happly
      rfl

theorem pages_ne_zero {i : Instr} (hw : i.wellFormed = true) : i.pages ≠ some 0 := by
  have hn (n : Byte) (h : legalPages n = true) : n ≠ 0 := by
    rintro rfl
    have := ((legalPages_iff 0).1 h).1
    simp at this
  cases i with
  | zw n bh ah | zr n bh ah =>
    intro h
    exact hn n hw (Option.some.inj h)
  | vv | ns | br | brr | bs | be | bes | ber => nofun

theorem hasPayload_length {i : Instr} {p : List Byte} {s : State} (hp : HasPayload i p s) :
    p.length = i.payloadLen := by
  rw [readAt_length hp, span, List.length_range']

/-- The host polls on while the responder takes the frame that waits and answers it (46_device R254, log 2). -/
theorem pollStep_device {s : State} {i : Instr} {p r : List Byte} {d : Device} (hq : Quiet s)
    (hpeer : s.peer = .reference) (hg : s.eng.ph.group = .receive) (hd : s.d2h = [])
    (hpages : i.pages ≠ some 0) (hl : p.length = i.payloadLen) (hh : s.h2d = frameOf i p)
    (hresp : s.dev.respond i p = some (d, r)) :
    pollStep s = .next { s with h2d := [], d2h := r, dev := d } := by
  have hframe : decodeFrame s.h2d = .ok (i, p, []) := by
    rw [hh, ← decodeFrame_frameOf_append hpages hl [], List.append_nil]
  have hbyte : ¬ byteEnabled s = true := by simp [byteEnabled, hg, hd]
  have hdev : deviceEnabled s = true := by simp [deviceEnabled, hpeer, hframe]
  rw [pollStep_quiet hq, autoStep, if_neg hbyte, if_pos hdev, deviceStep, if_pos hpeer, hframe]
  simp only [hresp, hd, List.nil_append]

/-- The block at rest beside the reference responder, with nothing planned and nothing on the link. -/
structure BesideResponder (s : State) : Prop where
  ready : Ready s
  quiet : Quiet s
  peer : s.peer = .reference
  h2d : s.h2d = []
  d2h : s.d2h = []

/-- 46_device R254: against the responder a command takes the responder's answer, byte by byte, and is over, with the
responder in its new state and nothing left on the link (log 2). -/
theorem exec_reference {s : State} {i : Instr} {p r : List Byte} {d : Device} (hs : BesideResponder s)
    (hw : i.wellFormed = true) (hp : HasPayload i p s) (hresp : s.dev.respond i p = some (d, r)) :
    exec i s = .next { s with dev := d, eng := r.foldl Engine.afterRx (responding s i p).eng } := by
  have hlen := respond_length hresp
  have hle := responseLen_le hw
  obtain ⟨n, hn, he⟩ := exec_ready hs.ready hs.quiet hw hp
  obtain ⟨m, rfl⟩ : ∃ m, n = m + r.length + 1 := ⟨n - r.length - 1, by omega⟩
  have hne : (responding s i p).eng.ph ≠ .idle := ne_idle_of_receive (response_phase_group _)
  have hstep := pollStep_device (s := responding s i p) hs.quiet hs.peer (response_phase_group _) hs.d2h
    (pages_ne_zero hw) (hasPayload_length hp) (by rw [responding, hs.h2d, List.nil_append]) hresp
  have hpoll := poll_response m r { responding s i p with h2d := [], d2h := r, dev := d } hs.quiet
    (responding_runs p hw) (responding_not_transmit s i p) (List.append_nil r).symm
    (hlen.trans (responding_awaited s i p).symm)
  rw [he, poll_step _ hne hstep, hpoll]
  simp only [responding, hs.h2d, hs.d2h]

/-- What a command does to the block against the responder is what it does when the responder's answer already waits
(46_device R250, R254). -/
theorem exec_reference_of_waiting {s t : State} {i : Instr} {p r : List Byte} {d : Device} (hs : BesideResponder s)
    (hw : i.wellFormed = true) (hp : HasPayload i p s) (hresp : s.dev.respond i p = some (d, r))
    (ht : exec i { s with d2h := r } = .next t) : exec i s = .next { s with dev := d, eng := t.eng } := by
  have hwaiting := exec_response (s := { s with d2h := r }) hs.ready hs.quiet hw hp (List.append_nil r).symm
    (respond_length hresp)
  obtain rfl := Host.Outcome.next.inj (hwaiting.symm.trans ht)
  exact exec_reference hs hw hp hresp

end Sys2Proof.Machine
end

section
/-! PROOFS. Against the reference responder a bank reads back as it was set, and pages as they were written. -/

namespace Sys2Proof.Machine

/-! ### Acknowledged commands -/

/-- 41_framer R156: the acknowledgement completes the command; RES keeps its values. -/
theorem exec_ack {i : Instr} {s : State} {p rest : List Byte} (hi : i.response = .ack) (hr : Ready s) (hq : Quiet s)
    (hw : i.wellFormed = true) (hp : HasPayload i p s) (hd : s.d2h = Config.ackByte :: rest) :
    exec i s = .next { s with
      eng := { s.eng.sent i p with status := s.eng.status.after false }
      h2d := s.h2d ++ frameOf i p, d2h := rest } := by
  have hafter : (responding s i p).eng.afterRx Config.ackByte
      = { s.eng.sent i p with status := s.eng.status.after false } := by
    rw [← complete_sent i p hr.idle .rxAck, responding, hi]
    exact if_pos rfl
  rw [exec_of_last_byte hr hq hw hp hd (by rw [hafter]; exact sent_ph i p hr.idle), hafter]
  rfl

/-- 41_framer R156, 60_exceptions R290: any other byte ends the command with NAK and stands in RES0. -/
theorem exec_nak {i : Instr} {s : State} {p rest : List Byte} {k : Byte} (hi : i.response = .ack) (hr : Ready s)
    (hq : Quiet s) (hw : i.wellFormed = true) (hp : HasPayload i p s) (hd : s.d2h = k :: rest)
    (hk : k ≠ Config.ackByte) :
    exec i s = .next { s with
      eng := { s.eng.sent i p with res := setResults s.eng.res 0 [k], status := s.eng.status.failed false .nak }
      h2d := s.h2d ++ frameOf i p, d2h := rest } := by
  have hafter : (responding s i p).eng.afterRx k
      = { s.eng.sent i p with res := setResults s.eng.res 0 [k], status := s.eng.status.failed false .nak } := by
    have hres : (s.eng.sent i p).res = s.eng.res := withOperands_res s.eng i
    rw [← hres, ← sent_atRest i p hr.idle, responding, hi]
    exact if_neg hk
  rw [exec_of_last_byte hr hq hw hp hd (by rw [hafter]; exact sent_ph i p hr.idle), hafter]
  rfl

/-- 46_device R266: a rejected frame is counted, and changes nothing else. -/
theorem respond_rejected {d : Device} {i : Instr} (p : List Byte) (hrej : Config.reject (d.frames + 1) = true)
    (hi : i.response = .ack) : d.respond i p = some ({ d with frames := d.frames + 1 }, [Config.nakByte]) := by
  simp [Device.respond, acknowledged, hrej, hi]

/-- 46_device R254, R266: a frame that is not rejected, or that has no acknowledgement to refuse, is carried out. -/
theorem respond_applied {d : Device} {i : Instr} (p : List Byte)
    (h : Config.reject (d.frames + 1) = false ∨ i.response ≠ .ack) :
    d.respond i p = ({ d with frames := d.frames + 1 } : Device).apply i p := by
  rcases h with h | h <;> simp [Device.respond, acknowledged, h]

section
variable {s : State} {i : Instr} {p : List Byte}

/-- 46_device R266: a command whose frame the responder rejects ends with NAK; the frame has been counted. -/
theorem exec_rejected (hs : BesideResponder s) (hi : i.response = .ack) (hw : i.wellFormed = true)
    (hp : HasPayload i p s) (hrej : Config.reject (s.dev.frames + 1) = true) :
    ∃ t, exec i s = .next t ∧ t.eng.status = s.eng.status.failed false .nak ∧
      t.dev = { s.dev with frames := s.dev.frames + 1 } :=
  ⟨_, exec_reference_of_waiting hs hw hp (respond_rejected p hrej hi)
    (exec_nak (s := { s with d2h := [Config.nakByte] }) hi hs.ready hs.quiet hw hp rfl nakByte_ne_ackByte), rfl, rfl⟩

/-- The machine after an acknowledged command that completed against the responder, now in state `d`. -/
def acknowledgedState (s : State) (i : Instr) (p : List Byte) (d : Device) : State :=
  { s with dev := d, eng := { s.eng.sent i p with status := s.eng.status.after false } }

/-- 46_device R257, R259, R263: a command whose frame the responder carries out and acknowledges completes. -/
theorem exec_acknowledged {d : Device} (hs : BesideResponder s) (hi : i.response = .ack)
    (hw : i.wellFormed = true) (hp : HasPayload i p s) (hrej : Config.reject (s.dev.frames + 1) = false)
    (happly : ({ s.dev with frames := s.dev.frames + 1 } : Device).apply i p = some (d, [Config.ackByte])) :
    exec i s = .next (acknowledgedState s i p d) :=
  exec_reference_of_waiting hs hw hp ((respond_applied p (.inl hrej)).trans happly)
    (exec_ack (s := { s with d2h := [Config.ackByte] }) hi hs.ready hs.quiet hw hp rfl)

/-- After an acknowledged command the next one finds the block at rest again. -/
theorem BesideResponder.acknowledged (hs : BesideResponder s) (d : Device) :
    BesideResponder (acknowledgedState s i p d) := by
  obtain ⟨⟨hopen, hph, _, hfault⟩, hq, hpeer, hh, hd⟩ := hs
  exact ⟨⟨(withOperands_isOpen s.eng i).trans hopen, sent_ph i p hph, rfl, hfault⟩, hq, hpeer, hh, hd⟩

end

/-! ### Banks -/

/-- A command that sets a bank, and the one that gets what it sets (46_device R257, R263). -/
structure BankPair (b : Bank) (set get : Instr) : Prop where
  setResponse : set.response = .ack
  getResponse : get.response = .byte
  setWellFormed : set.wellFormed = true
  getWellFormed : get.wellFormed = true
  setPayload : set.payloadLen = 0
  getPayload : get.payloadLen = 0
  readsBack : ∀ d : Device, ∃ d', d.apply set [] = some (d', [Config.ackByte]) ∧
    ∃ d'', ({ d' with frames := d'.frames + 1 } : Device).apply get [] = some (d'', [byteOfBank b])

theorem bankPair_of_mem {b : Bank} {set get : Instr}
    (h : (set, get) ∈ [(Instr.br b, Instr.brr), (.bs b, .bes), (.be b, .ber)]) : BankPair b set get := by
  simp only [List.mem_cons, Prod.mk.injEq, List.not_mem_nil, or_false] at h
  rcases h with ⟨rfl, rfl⟩ | ⟨rfl, rfl⟩ | ⟨rfl, rfl⟩ <;>
    exact ⟨rfl, rfl, rfl, rfl, rfl, rfl, fun _ => ⟨_, rfl, _, rfl⟩⟩

theorem hasPayload_of_none {i : Instr} (h : i.payloadLen = 0) (s : State) : HasPayload i [] s := by
  rw [HasPayload, h, payload_zero]

/-- 44_bank R201, R204, R205: a get-bank command stores the byte the responder answers in RES0. -/
theorem exec_get_reference {s : State} {get : Instr} {d : Device} {r : Byte} (hs : BesideResponder s)
    (hi : get.response = .byte) (hw : get.wellFormed = true) (hp : HasPayload get [] s)
    (happly : ({ s.dev with frames := s.dev.frames + 1 } : Device).apply get [] = some (d, [r])) :
    ∃ u, exec get s = .next u ∧ u.eng.status = s.eng.status.after false ∧ u.eng.res[0] = r := by
  have hresp := (respond_applied [] (.inr (by rw [hi]; decide))).trans happly
  refine ⟨_, exec_reference_of_waiting hs hw hp hresp
    (exec_get (s := { s with d2h := [r] }) hi hs.ready hs.quiet hw hp rfl), rfl, ?_⟩
  simp [setResults]

/-- Settles O52: a set command is rejected or leaves the block at rest with the bank in the register its get command
reads. -/
theorem banksReadBackAsSet : Obligations.BanksReadBackAsSet := by
  intro s b hr hq hpeer hh hd set get hmem
  have hs : BesideResponder s := ⟨hr, hq, hpeer, hh, hd⟩
  have hpair := bankPair_of_mem hmem
  have hp := hasPayload_of_none hpair.setPayload s
  cases hrej : Config.reject (s.dev.frames + 1) with
  | true => exact exec_rejected hs hpair.setResponse hpair.setWellFormed hp hrej
  | false =>
    obtain ⟨d, hset, d', hget⟩ := hpair.readsBack { s.dev with frames := s.dev.frames + 1 }
    exact ⟨acknowledgedState s set [] d,
      exec_acknowledged hs hpair.setResponse hpair.setWellFormed hp hrej hset, rfl,
      exec_get_reference (hs.acknowledged d) hpair.getResponse hpair.getWellFormed
        (hasPayload_of_none hpair.getPayload _) hget⟩

/-! ### Pages -/

/-- The responder after it has carried out one more frame, a `ZW` with `payload` (46_device R259). -/
def Device.withPages (d : Device) (n : Byte) (bh : Bank) (ah : Byte) (payload : List Byte) : Device :=
  { d with frames := d.frames + 1, mem := d.mem.writeAt ((d.transferSpan n bh ah).zip payload) }

theorem apply_zw (d : Device) (n : Byte) (bh : Bank) (ah : Byte) (payload : List Byte) :
    ({ d with frames := d.frames + 1 } : Device).apply (.zw n bh ah) payload
      = some (d.withPages n bh ah payload, [Config.ackByte]) := rfl

theorem apply_zr {d : Device} {n : Byte} {bh : Bank} {ah : Byte} {p : List Byte} (payload : List Byte)
    (h : d.mem.readAt (d.transferSpan n bh ah) = some p) : d.apply (.zr n bh ah) payload = some (d, summed p) := by
  simp only [Device.apply, h]

/-- 46_device R259, R260: the pages of a transfer, once stored, are readable at its addresses. -/
theorem readAt_withPages (d : Device) (n : Byte) (bh : Bank) (ah : Byte) {payload : List Byte}
    (hl : payload.length = 256 * n.toNat) :
    (d.withPages n bh ah payload).mem.readAt ((d.withPages n bh ah payload).transferSpan n bh ah) = some payload :=
  readAt_writeAt_of_nodup d.mem (transferSpan_nodup d n bh ah) ((transferSpan_length d n bh ah).trans hl.symm)

/-- 43_memory R181, 46_device R260: a `ZR` whose pages the responder can read completes with them in RXBUF. -/
theorem exec_zr_reference {s : State} {n : Byte} {bh : Bank} {ah : Byte} {p : List Byte} (hs : BesideResponder s)
    (hn : legalPages n = true) (hread : s.dev.mem.readAt (s.dev.transferSpan n bh ah) = some p) :
    ∃ u, exec (.zr n bh ah) s = .next u ∧ u.eng.status = s.eng.status.after false ∧
      u.eng.rxbuf.readAt (span 0 (256 * n.toNat)) = some p := by
  have hl : p.length = 256 * n.toNat := (readAt_length hread).trans (transferSpan_length ..)
  have hresp := (respond_applied (i := .zr n bh ah) [] (.inr (by simp [Instr.response]))).trans
    (apply_zr (d := { s.dev with frames := s.dev.frames + 1 }) [] hread)
  refine ⟨_, exec_reference_of_waiting (i := .zr n bh ah) hs hn rfl hresp
    (zrStoresThePages { s with d2h := summed p } n bh ah p [] (sum8 p) hs.ready hs.quiet hn hl rfl (.inl rfl)),
    ?_, ?_⟩
  · rw [decide_eq_false (not_not_intro rfl)]
  · rw [← hl]
    exact readAt_writeAt p 0 s.eng.rxbuf

/-- Settles O53: a page write is rejected, or its pages are what the responder answers to the read of the same
operands. -/
theorem pagesReadBackAsWritten : Obligations.PagesReadBackAsWritten := by
  intro s n bh ah payload hr hq hpeer hh hd hn hp
  have hs : BesideResponder s := ⟨hr, hq, hpeer, hh, hd⟩
  cases hrej : Config.reject (s.dev.frames + 1) with
  | true =>
    obtain ⟨t, ht, hstatus, hdev⟩ := exec_rejected (i := .zw n bh ah) hs rfl hn hp hrej
    exact ⟨t, ht, hstatus, by rw [hdev]⟩
  | false =>
    have hread := readAt_withPages s.dev n bh ah (hasPayload_length hp)
    obtain ⟨u, hu, hstatus, hrx⟩ :=
      exec_zr_reference (s := acknowledgedState s (.zw n bh ah) payload (s.dev.withPages n bh ah payload))
        (hs.acknowledged _) hn hread
    refine ⟨_, exec_acknowledged (i := .zw n bh ah) hs rfl hn hp hrej (apply_zw ..), rfl, u, hu, hstatus,
      fun k hk => ?_⟩
    exact read_eq_of_readAt_eq hrx hp k (by simpa [span] using hk)

end Sys2Proof.Machine
end

section
/-! PROOFS. The decoder accepts nothing but what the encoder writes: each header and each frame has one meaning. -/

namespace Sys2Proof

/-! ### The parts of a header -/

/-- 30_encoding R95, R103: the three parameter bytes of a transfer, as they were read. -/
theorem decodeTransfer_ok {mk : Byte → Bank → Byte → Instr} {bs rest : List Byte} {i : Instr}
    (h : decodeTransfer mk bs = .ok (i, rest)) :
    ∃ n bh ah, i = mk n bh ah ∧ bs = n :: byteOfBank bh :: ah :: rest := by
  unfold decodeTransfer at h
  split at h
  case h_1 n c ah rest' =>
    split at h
    case h_1 bh hbh =>
      cases h
      exact ⟨n, bh, ah, rfl, by rw [byteOfBank_of_bankOfByte hbh]⟩
    case h_2 => cases h
  case h_2 => split_ifs at h
  case h_3 => cases h

/-- 30_encoding R94, R100, R103: the parameter byte of a bank command is a get's letter or a set's bank. -/
theorem decodeBank_ok {get : Byte → Option Instr} {set : Bank → Instr} {bs rest : List Byte} {i : Instr}
    (h : decodeBank get set bs = .ok (i, rest)) :
    (∃ c, get c = some i ∧ bs = c :: rest) ∨ ∃ b, i = set b ∧ bs = byteOfBank b :: rest := by
  unfold decodeBank at h
  split at h
  case h_1 c rest' =>
    split at h
    case h_1 j hj =>
      cases h
      exact .inl ⟨c, hj, rfl⟩
    case h_2 =>
      split at h
      case h_1 b hb =>
        cases h
        exact .inr ⟨b, rfl, by rw [byteOfBank_of_bankOfByte hb]⟩
      case h_2 => cases h
  case h_2 => cases h

theorem getIoLetter_eq_some {c : Byte} {i : Instr} (h : getIoLetter c = some i) : c = 0x52 ∧ i = .brr := by
  unfold getIoLetter at h
  split_ifs at h with hc
  exact ⟨hc, (Option.some.inj h).symm⟩

theorem getEmuLetter_eq_some {c : Byte} {i : Instr} (h : getEmuLetter c = some i) :
    (c = 0x53 ∧ i = .bes) ∨ (c = 0x52 ∧ i = .ber) := by
  unfold getEmuLetter at h
  split_ifs at h with hs hr
  · exact .inl ⟨hs, (Option.some.inj h).symm⟩
  · exact .inr ⟨hr, (Option.some.inj h).symm⟩

/-! ### Whole headers -/

/-- 30_encoding R100: a code and its parameter bytes are the header of the command that is read from them. -/
theorem decodeAfterCode_ok {c0 c1 : Byte} {bs rest : List Byte} {i : Instr}
    (h : decodeAfterCode c0 c1 bs = .ok (i, rest)) : c0 :: c1 :: bs = encode i ++ rest := by
  unfold decodeAfterCode at h
  split_ifs at h with hvv hns hzw hzr hbr hbs hbe
  case pos => cases h; rw [hvv.1, hvv.2]; rfl
  case pos => cases h; rw [hns.1, hns.2]; rfl
  case pos =>
    obtain ⟨n, bh, ah, rfl, rfl⟩ := decodeTransfer_ok h
    rw [hzw.1, hzw.2]; rfl
  case pos =>
    obtain ⟨n, bh, ah, rfl, rfl⟩ := decodeTransfer_ok h
    rw [hzr.1, hzr.2]; rfl
  case pos =>
    rw [hbr.1, hbr.2]
    obtain ⟨c, hc, rfl⟩ | ⟨b, rfl, rfl⟩ := decodeBank_ok h
    · obtain ⟨rfl, rfl⟩ := getIoLetter_eq_some hc
      rfl
    · rfl
  case pos =>
    rw [hbs.1, hbs.2]
    obtain ⟨c, hc, rfl⟩ | ⟨b, rfl, rfl⟩ := decodeBank_ok h
    · cases hc
    · rfl
  case pos =>
    rw [hbe.1, hbe.2]
    obtain ⟨c, hc, rfl⟩ | ⟨b, rfl, rfl⟩ := decodeBank_ok h
    · obtain ⟨rfl, rfl⟩ | ⟨rfl, rfl⟩ := getEmuLetter_eq_some hc <;> rfl
    · rfl

theorem decodeHeader_ok {bs rest : List Byte} {i : Instr} (h : decodeHeader bs = .ok (i, rest)) :
    bs = encode i ++ rest := by
  unfold decodeHeader at h
  split at h
  case h_1 => exact decodeAfterCode_ok h
  case h_2 => split_ifs at h
  case h_3 => cases h

/-! ### Whole frames -/

theorem eq_vv_of_not_checksummed {i : Instr} (h : ¬ i.checksummed = true) : i = .vv := by
  cases i with
  | vv => rfl
  | ns | zw | zr | br | brr | bs | be | bes | ber => exact absurd rfl h

/-- 30_encoding R90, 46_device R265: what is read after a header is the rest of the frame the engine builds. -/
theorem decodeBody_ok {i j : Instr} {rest payload rest' : List Byte}
    (h : decodeBody i rest = .ok (j, payload, rest')) :
    j = i ∧ i.pages ≠ some 0 ∧ payload.length = i.payloadLen ∧ encode i ++ rest = frameOf i payload ++ rest' := by
  unfold decodeBody at h
  split_ifs at h with hpages hck
  case pos =>
    split at h
    case h_1 => cases h
    case h_2 cs tail hdrop =>
      simp only at h
      split_ifs at h with hsum
      cases h
      have hlt : i.payloadLen < rest.length := by
        rw [← Nat.sub_pos_iff_lt, ← List.length_drop, hdrop]
        exact Nat.succ_pos _
      have hrest : rest.take i.payloadLen ++ cs :: rest' = rest := by rw [← hdrop, List.take_append_drop]
      refine ⟨rfl, hpages, by rw [List.length_take, min_eq_left hlt.le], ?_⟩
      rw [frameOf_eq, if_pos hck, ← hsum, List.append_assoc, List.append_assoc, List.singleton_append, hrest]
  case neg =>
    cases h
    obtain rfl := eq_vv_of_not_checksummed hck
    exact ⟨rfl, hpages, rfl, rfl⟩

theorem decodeFrame_ok {bs payload rest : List Byte} {i : Instr} (h : decodeFrame bs = .ok (i, payload, rest)) :
    bs = frameOf i payload ++ rest ∧ payload.length = i.payloadLen ∧ i.pages ≠ some 0 := by
  unfold decodeFrame at h
  split at h
  case h_1 => cases h
  case h_2 j tail hj =>
    obtain ⟨rfl, hpages, hl, heq⟩ := decodeBody_ok h
    exact ⟨(decodeHeader_ok hj).trans heq, hl, hpages⟩

/-! ### The encoding: O3, O1, O2, O4, O6 -/

/-- Settles O3: the header is read back, and behind it the payload and a checksum byte that agrees. -/
theorem frameDecodeInvertsBuild : Obligations.FrameDecodeInvertsBuild := fun _ _ rest hpages hl =>
  decodeFrame_frameOf_append hpages hl rest

/-- Settles O1, command by command. -/
theorem headerDecodeInvertsEncode : Obligations.HeaderDecodeInvertsEncode := decodeHeader_encode_append

/-- Settles O2, along the branches of the decoder. -/
theorem decodedHeaderIsEncoding : Obligations.DecodedHeaderIsEncoding := fun _ _ _ h => decodeHeader_ok h

/-- Settles O4: the header is that of its command, and the body is the rest of its frame. -/
theorem decodedFrameIsBuilt : Obligations.DecodedFrameIsBuilt := fun _ _ _ _ h => decodeFrame_ok h

/-- A sequence that is exactly one header decodes to its command. -/
theorem decode_encode (i : Instr) : decode (encode i) = .ok i := by
  rw [decode, ← List.append_nil (encode i), decodeHeader_encode_append]

/-- Settles O6: ten of the words are headers as they are encoded, and the eleventh has a bank byte above 7. -/
theorem sampleHeadersDecode : Obligations.SampleHeadersDecode :=
  ⟨decode_encode .vv, decode_encode .ns, decode_encode (.zw 0x10 7 0xE0), decode_encode (.zr 0x54 0 0xAC),
    decode_encode (.br 5), decode_encode .brr, decode_encode (.bs 3), decode_encode (.be 7), decode_encode .bes,
    decode_encode .ber, rfl⟩

end Sys2Proof
end

section
/-! PROOFS. The version query on a block at rest. -/

namespace Sys2Proof.Machine

/-- 41_framer R158: the three raw bytes of `VV` fill RES0 to RES2, and the third of them completes it. -/
theorem afterRx_raw3 {e : Engine} (hph : e.ph = .idle) (t v d : Byte) :
    [t, v, d].foldl Engine.afterRx { e.sent .vv [] with ph := .rxRaw }
      = { e.sent .vv [] with res := setResults e.res 0 [t, v, d], status := e.status.after false } := by
  rw [← sent_atRest .vv [] hph]
  rfl

/-- Settles O21: the response that waits is taken byte by byte. -/
theorem vvStoresThreeRawBytes : Obligations.VvStoresThreeRawBytes := by
  intro s t v d rest hr hq hd
  rw [exec_response (i := .vv) (p := []) (r := [t, v, d]) hr hq rfl rfl hd rfl, ← afterRx_raw3 hr.idle]
  rfl

end Sys2Proof.Machine
end

section
/-! PROOFS. What a command exchanges over the link while it is in flight, under any plan in which no other agent takes
from `h2d` or resets the block (41_framer R165). -/

namespace Sys2Proof.Machine

/-! ### What is still to be sent -/

/-- The checksum byte a request frame ends in, where it has one (30_encoding R90). -/
def trailer (i : Instr) (p : List Byte) : List Byte := if i.checksummed then [sum8 (encode i ++ p)] else []

theorem frameOf_eq_trailer (i : Instr) (p : List Byte) : frameOf i p = encode i ++ (p ++ trailer i p) := by
  rw [frameOf_eq, trailer]
  split_ifs <;> simp

/-- The bytes of the frame of `i` that the block has not sent yet (41_framer R152 to R154). -/
def Engine.unsent (e : Engine) (i : Instr) (p : List Byte) : List Byte :=
  match e.ph with
  | .txHdr => (encode i).drop e.idx.toNat ++ (p ++ trailer i p)
  | .txPay => p.drop e.idx.toNat ++ trailer i p
  | .txCsum => trailer i p
  | _ => []

theorem unsent_of_not_transmit {e : Engine} (i : Instr) (p : List Byte) (hg : e.ph.group ≠ .transmit) :
    e.unsent i p = [] := by
  unfold Engine.unsent
  cases hph : e.ph <;> simp_all [Phase.group]

/-- Each byte of a run of memory that is read is the byte at its address. -/
theorem read_of_readAt {m : Memory} : ∀ {as : List Nat} {bs : List Byte}, m.readAt as = some bs →
    ∀ {k a : Nat}, as[k]? = some a → m.read a = bs[k]? := by
  intro as
  induction as with
  | nil => intro bs _ k a hk; simp at hk
  | cons x as ih =>
    intro bs h k a hk
    rw [readAt_cons] at h
    obtain ⟨b, hb, h⟩ := Option.bind_eq_some_iff.1 h
    obtain ⟨bs, hbs, rfl⟩ := Option.map_eq_some_iff.1 h
    cases k with
    | zero =>
      obtain rfl := Option.some.inj hk
      exact hb
    | succ k => exact ih hbs hk

theorem drop_eq_cons_of_getElem? {l : List Byte} {k : Nat} {b : Byte} (h : l[k]? = some b) :
    l.drop k = b :: l.drop (k + 1) := by
  obtain ⟨hk, rfl⟩ := List.getElem?_eq_some_iff.1 h
  exact List.drop_eq_getElem_cons hk

/-- 41_framer R152: a header byte that is sent is the next byte of the frame. -/
theorem unsent_afterHdr {e : Engine} {i : Instr} {p : List Byte} {b : Byte} (hrun : e.Runs i)
    (hl : p.length = i.payloadLen) (hph : e.ph = .txHdr) (hb : e.txByte = some b) :
    e.unsent i p = b :: (e.afterHdr b).unsent i p := by
  have hhdr := hdr_eq hrun.command
  have hidx : e.idx.toNat < (encode i).length := by simpa [Engine.phaseOk, hph, hhdr] using hrun.phase
  have hlen := (encode_length i).2
  have hbyte : (encode i)[e.idx.toNat]? = some b := by
    rw [← hb]
    simp only [Engine.txByte, hph, hhdr, List.getD_eq_getElem?_getD, List.getElem?_eq_getElem hidx, Option.getD_some]
  have hnext : e.unsent i p = b :: ((encode i).drop (e.idx.toNat + 1) ++ (p ++ trailer i p)) := by
    rw [Engine.unsent, hph]
    simp only [drop_eq_cons_of_getElem? hbyte, List.cons_append]
  rw [hnext]
  congr 1
  unfold Engine.afterHdr
  rw [hhdr, plen_eq hrun.command, checksummed_eq hrun.command]
  split_ifs with hmore hpay hck
  · simp only [Engine.unsent, moveTo_ph, moveTo_idx, hph, succ_toNat e.idx rfl (by omega)]
  · rw [List.drop_eq_nil_of_le (by omega)]
    rfl
  · rw [List.drop_eq_nil_of_le (by omega), List.length_eq_zero_iff.1 (show p.length = 0 by omega)]
    rfl
  · rw [List.drop_eq_nil_of_le (by omega), List.length_eq_zero_iff.1 (show p.length = 0 by omega), trailer, if_neg hck,
      unsent_of_not_transmit i [] (by rw [enterRx_group (e := e.summedTx b) hrun.command]; decide)]
    rfl

/-- 41_framer R153: a payload byte that is sent is the next byte of the frame. -/
theorem unsent_afterPay {e : Engine} {i : Instr} {p : List Byte} {b : Byte} (hrun : e.Runs i)
    (hp : e.payload i.payloadLen = some p) (hph : e.ph = .txPay) (hb : e.txByte = some b) :
    e.unsent i p = b :: (e.afterPay b).unsent i p := by
  have hplen := plen_eq hrun.command
  have hidx : e.idx.toNat < i.payloadLen := by
    have hpay : e.cur = 2 ∧ e.idx.toNat < e.plen := by simpa [Engine.phaseOk, hph] using hrun.phase
    omega
  have hle := payloadLen_le i
  have hl : p.length = i.payloadLen := by rw [readAt_length hp, span, List.length_range']
  have hbyte : p[e.idx.toNat]? = some b := by
    rw [← read_of_readAt hp (k := e.idx.toNat) (a := e.idx.toNat) (by simp [span, hidx]), ← hb]
    simp only [Engine.txByte, hph]
  have hnext : e.unsent i p = b :: (p.drop (e.idx.toNat + 1) ++ trailer i p) := by
    rw [Engine.unsent, hph]
    simp only [drop_eq_cons_of_getElem? hbyte, List.cons_append]
  rw [hnext]
  congr 1
  unfold Engine.afterPay
  rw [hplen]
  split_ifs with hmore
  · simp only [Engine.unsent, moveTo_ph, moveTo_idx, hph, succ_toNat e.idx rfl (by omega)]
  · rw [List.drop_eq_nil_of_le (by omega)]
    rfl

/-- 41_framer R154: the checksum byte that is sent is the last byte of the frame. -/
theorem unsent_txCsum {e : Engine} {i : Instr} {p : List Byte} {b : Byte} (hok : e.Ok) (hrun : e.Runs i)
    (hp : e.payload i.payloadLen = some p) (hph : e.ph = .txCsum) (hb : e.txByte = some b) :
    e.unsent i p = b :: e.enterRx.unsent i p := by
  have hck : i.checksummed = true := by
    have hphase : e.checksummed = true ∧ e.idx = 0 := by simpa [Engine.phaseOk, hph] using hrun.phase
    rw [← checksummed_eq hrun.command, hphase.1]
  have hsum : e.txsum = sum8 (encode i ++ p) := by
    have hts : ∃ q, e.payload e.plen = some q ∧ e.txsum = sum8 (e.hdr ++ q) := by
      simpa [Engine.txsumOk, hph] using hok.txsum
    rw [plen_eq hrun.command, hdr_eq hrun.command, hp] at hts
    obtain ⟨q, hq, hts⟩ := hts
    rw [hts, Option.some.inj hq]
  have hbyte : e.txsum = b := by simpa [Engine.txByte, hph] using hb
  have hnow : e.unsent i p = [b] := by
    rw [Engine.unsent, hph]
    simp only [trailer, if_pos hck, ← hsum, hbyte]
  have hthen : e.enterRx.unsent i p = [] :=
    unsent_of_not_transmit i p (by rw [enterRx_group hrun.command]; decide)
  rw [hnow, hthen]

/-- 41_framer R152 to R154: a byte that is sent is the next byte of the frame. -/
theorem unsent_afterTx {e : Engine} {i : Instr} {p : List Byte} {b : Byte} (hok : e.Ok) (hrun : e.Runs i)
    (hp : e.payload i.payloadLen = some p) (hg : e.ph.group = .transmit) (hb : e.txByte = some b) :
    e.unsent i p = b :: (e.afterTx b).unsent i p := by
  unfold Engine.afterTx
  obtain hph | hph | hph := transmit_cases hg <;> rw [hph] <;> simp only
  · exact unsent_afterHdr hrun (by rw [readAt_length hp, span, List.length_range']) hph hb
  · exact unsent_afterPay hrun hp hph hb
  · exact unsent_txCsum hok hrun hp hph hb

/-! ### What is still to be received, and how long it may take -/

/-- The bytes of the response of `i` that the block has not taken yet (41_framer R165). -/
def Engine.toReceive (e : Engine) (i : Instr) : Nat := if e.ph.group = .transmit then responseLen i else e.awaited

/-- The time units that may still pass between the bytes of the operation: the timer starts anew at the receive group
(40_transport R128). -/
def Engine.timeLeft (e : Engine) : Nat := if e.ph.group = .transmit then 65536 else 65536 - e.dlt.toNat

theorem timeLeft_pos (e : Engine) : 0 < e.timeLeft := by
  have := e.dlt.isLt
  unfold Engine.timeLeft
  split_ifs <;> omega

theorem timeLeft_le (e : Engine) : e.timeLeft ≤ 65536 := by
  unfold Engine.timeLeft
  split_ifs <;> omega

theorem enterRx_awaited {e : Engine} {i : Instr} (hc : e.command = some i) : e.enterRx.awaited = responseLen i := by
  unfold Engine.awaited
  rw [enterRx_ph, rxPhase_of_command hc, enterRx_idx, enterRx_rlen, rlen_eq hc]
  cases i <;> rfl

/-- 41_framer R155: while the request is sent, the whole response is to come. -/
theorem toReceive_afterTx {e : Engine} {i : Instr} (b : Byte) (hc : e.command = some i)
    (hg : e.ph.group = .transmit) : (e.afterTx b).toReceive i = e.toReceive i := by
  unfold Engine.toReceive
  rw [if_pos hg]
  obtain ⟨q, j, hq, heq⟩ | ⟨ts, heq⟩ := afterTx_cases b hg <;> rw [heq]
  · exact if_pos hq
  · rw [enterRx_group (e := { e with txsum := ts }) hc, if_neg (by decide)]
    exact enterRx_awaited (e := { e with txsum := ts }) hc

/-- 41_framer R156 to R160: each byte taken is one byte less to come. -/
theorem toReceive_afterRx {e : Engine} {i : Instr} (b : Byte) (hrun : e.Runs i) (hg : e.ph.group = .receive) :
    e.toReceive i = 1 + (e.afterRx b).toReceive i := by
  have hnot : e.ph.group ≠ .transmit := by rw [hg]; decide
  unfold Engine.toReceive
  rw [if_neg hnot, if_neg (afterRx_group b hnot), ← afterRx_awaited b hrun hg, Nat.add_comm]

theorem timeLeft_afterRx {e : Engine} (b : Byte) (hg : e.ph.group = .receive) :
    (e.afterRx b).timeLeft = e.timeLeft := by
  have hnot : e.ph.group ≠ .transmit := by rw [hg]; decide
  have hdlt : (e.afterRx b).dlt = e.dlt := by
    obtain ⟨st, r, x, rs, cs, q, j, heq⟩ := afterRx_frame e b
    rw [heq]
  rw [Engine.timeLeft, if_neg (afterRx_group b hnot), hdlt, Engine.timeLeft, if_neg hnot]

end Sys2Proof.Machine
end

section
/-! PROOFS. What a command exchanges over the link from acceptance to its end. -/

namespace Sys2Proof.Machine

/-! ### One exchange over the link -/

/-- From `s` to `t`, while `arrived` joined `d2h`, the block has sent `sent` and taken `taken`; unless an error has
ended the operation, what is left of the frame of `i` and of its response is what was left before, less these. -/
structure Exchange (i : Instr) (p arrived sent taken : List Byte) (s t : State) : Prop where
  h2d : t.h2d = s.h2d ++ sent
  d2h : s.d2h ++ arrived = taken ++ t.d2h
  sent_prefix : sent <+: s.eng.unsent i p
  unsent : t.eng.status.err = .none → s.eng.unsent i p = sent ++ t.eng.unsent i p
  toReceive : t.eng.status.err = .none → s.eng.toReceive i = taken.length + t.eng.toReceive i
  time : t.eng.status.err = .none → t.eng.timeLeft ≤ s.eng.timeLeft

/-- The operation of `i` with payload `p` stands in order, beside the unconstrained peer and under a plan in which
nobody else takes from `h2d` or resets the block. -/
structure Exchanging (i : Instr) (p : List Byte) (s : State) : Prop where
  ok : s.eng.Ok
  runs : s.eng.Runs i
  payload : HasPayload i p s
  peer : s.peer = .unconstrained
  plan : ∀ e, .env e ∈ s.agenda → e.intrudes = false

/-- A step after which the block stands as before: what came joins `d2h`. -/
theorem Exchange.of_arrival {i : Instr} {p arrived : List Byte} {s t : State} (heng : t.eng = s.eng)
    (hh : t.h2d = s.h2d) (hd : t.d2h = s.d2h ++ arrived) : Exchange i p arrived [] [] s t where
  h2d := by rw [hh, List.append_nil]
  d2h := hd.symm
  sent_prefix := List.nil_prefix
  unsent _ := by rw [heng, List.nil_append]
  toReceive _ := by rw [heng, List.length_nil, Nat.zero_add]
  time _ := by rw [heng]

theorem Exchange.refl (i : Instr) (p : List Byte) (s : State) : Exchange i p [] [] [] s s :=
  .of_arrival rfl rfl (List.append_nil _).symm

/-- Exchanges follow each other while no error has ended the operation. -/
theorem Exchange.trans {i : Instr} {p a a' x x' y y' : List Byte} {s t u : State} (h : Exchange i p a x y s t)
    (herr : t.eng.status.err = .none) (h' : Exchange i p a' x' y' t u) :
    Exchange i p (a ++ a') (x ++ x') (y ++ y') s u where
  h2d := by rw [h'.h2d, h.h2d, List.append_assoc]
  d2h := by rw [← List.append_assoc, h.d2h, List.append_assoc, h'.d2h, List.append_assoc]
  sent_prefix := by
    rw [h.unsent herr]
    exact (List.prefix_append_right_inj x).2 h'.sent_prefix
  unsent hu := by rw [h.unsent herr, h'.unsent hu, List.append_assoc]
  toReceive hu := by rw [h.toReceive herr, h'.toReceive hu, List.length_append, Nat.add_assoc]
  time hu := (h'.time hu).trans (h.time herr)

/-- 40_transport R128: an expiry, at whatever the timer then holds, ends the operation with an error and exchanges
nothing. -/
theorem Exchange.expire {i : Instr} {p a x y : List Byte} {s t u : State} (h : Exchange i p a x y s t)
    (hh : u.h2d = t.h2d) (hd : u.d2h = t.d2h) (hph : u.eng.ph ≠ .idle) : Exchange i p a x y s (expire u) := by
  have herr : (Machine.expire u).eng.status.err ≠ .none := by
    show u.eng.ph.group.expiry ≠ .none
    cases hp : u.eng.ph <;> simp_all [Phase.group, Group.expiry]
  exact
    { h2d := hh.trans h.h2d, d2h := h.d2h.trans (congrArg (y ++ ·) hd.symm), sent_prefix := h.sent_prefix
      unsent := fun hn => absurd hn herr, toReceive := fun hn => absurd hn herr, time := fun hn => absurd hn herr }

/-! ### The steps of the agents as exchanges -/

section
variable {i : Instr} {p : List Byte} {s t : State}

theorem exchange_send {b : Byte} (hs : Exchanging i p s) (hg : s.eng.ph.group = .transmit)
    (hb : s.eng.txByte = some b) : Exchange i p [] [b] [] s ((s.pushH2d b).putEng (s.eng.afterTx b)) := by
  have hunsent := unsent_afterTx hs.ok hs.runs hs.payload hg hb
  exact
    { h2d := rfl, d2h := List.append_nil _, sent_prefix := ⟨_, hunsent.symm⟩, unsent := fun _ => hunsent
      toReceive := fun _ => by
        rw [putEng_eng, toReceive_afterTx b hs.runs.command hg, List.length_nil, Nat.zero_add]
      time := fun _ => by
        rw [show s.eng.timeLeft = 65536 from if_pos hg]
        exact timeLeft_le _ }

theorem exchange_take {b : Byte} {rest : List Byte} (hs : Exchanging i p s) (hg : s.eng.ph.group = .receive)
    (hd : s.d2h = b :: rest) : Exchange i p [] [] [b] s ((s.putD2h rest).putEng (s.eng.afterRx b)) where
  h2d := (List.append_nil _).symm
  d2h := (List.append_nil _).trans hd
  sent_prefix := List.nil_prefix
  unsent _ := by
    have hnot : s.eng.ph.group ≠ .transmit := by rw [hg]; decide
    rw [unsent_of_not_transmit i p hnot, putEng_eng, unsent_of_not_transmit i p (afterRx_group b hnot)]
    rfl
  toReceive _ := toReceive_afterRx b hs.runs hg
  time _ := (timeLeft_afterRx b hg).le

/-- A byte step sends a byte or takes one, where it has one to send or to take. -/
theorem byteStep_exchange (hs : Exchanging i p s) (h : byteStep s = .next t) :
    ∃ x y, Exchange i p [] x y s t ∧ (byteEnabled s = true → 0 < x.length + y.length) := by
  obtain ⟨hno, rfl⟩ | ⟨b, hg, hb, rfl⟩ | ⟨b, rest, hg, hd, rfl⟩ := byteStep_cases h
  · exact ⟨[], [], .refl i p t, fun hyes => by simp [hno] at hyes⟩
  · exact ⟨[b], [], exchange_send hs hg hb, fun _ => Nat.one_pos⟩
  · exact ⟨[], [b], exchange_take hs hg hd, fun _ => Nat.one_pos⟩

/-- 40_transport R128: the timer of an operation in flight counts without wrapping, so that outside the transmit group
less time is left. -/
theorem timeLeft_count {e : Engine} (hok : e.Ok) (hph : e.ph ≠ .idle) :
    ({ e with dlt := e.dlt + 1 } : Engine).timeLeft ≤ e.timeLeft ∧
      (e.ph.group ≠ .transmit → ({ e with dlt := e.dlt + 1 } : Engine).timeLeft < e.timeLeft) := by
  have hlt := hok.timer hph
  have hdl := e.deadline.isLt
  have hs := succ_toNat e.dlt rfl (by omega)
  unfold Engine.timeLeft
  split_ifs with hg
  · exact ⟨le_rfl, fun hnot => absurd hg hnot⟩
  · simp only [hs]
    omega

theorem exchange_count (hs : Exchanging i p s) (hph : s.eng.ph ≠ .idle) : Exchange i p [] [] [] s (countUnit s) :=
  { Exchange.refl i p s with time := fun _ => (timeLeft_count hs.ok hph).1 }

theorem tick_exchange (hs : Exchanging i p s) (h : tick s = .next t) : ∃ x y, Exchange i p [] x y s t := by
  obtain ⟨_, rfl⟩ | ⟨hph, _, rfl⟩ | ⟨hph, _, _, rfl⟩ | ⟨hph, _, _, u, hu, rfl⟩ := tick_cases h
  · exact ⟨[], [], .refl i p t⟩
  · exact ⟨[], [], exchange_count hs hph⟩
  · exact ⟨[], [], (Exchange.refl i p s).expire rfl rfl hph⟩
  · obtain ⟨x, y, hxy, _⟩ := byteStep_exchange hs hu
    split_ifs with hg
    · have hflight : u.eng.ph ≠ .idle := by rwa [Ne, ← group_idle_iff, hg, group_idle_iff]
      exact ⟨x, y, hxy.expire rfl rfl hflight⟩
    · exact ⟨x, y, hxy⟩

/-- Every step of another agent that does not intrude is an exchange; what arrives is what the peer then sends. -/
theorem envStep_exchange {e : EnvEvent} (hs : Exchanging i p s) (he : e.intrudes = false)
    (h : envStep e s = .next t) : ∃ x y, Exchange i p (peerBytes [.env e]) x y s t := by
  cases e with
  | engine =>
    obtain ⟨x, y, hxy, _⟩ := byteStep_exchange hs h
    exact ⟨x, y, hxy⟩
  | tick => exact tick_exchange hs h
  | peerSend b =>
    cases h
    rw [peerSend, if_pos hs.peer]
    exact ⟨[], [], .of_arrival rfl rfl rfl⟩
  | txFail =>
    cases h
    unfold txFail
    split_ifs with hg
    · exact ⟨[], [], (Exchange.refl i p s).expire rfl rfl (ne_idle_of_transmit hg)⟩
    · exact ⟨[], [], .refl i p s⟩
  | rxTimeout =>
    cases h
    unfold rxTimeout
    split_ifs with hg
    · exact ⟨[], [], (Exchange.refl i p s).expire rfl rfl (ne_idle_of_receive hg)⟩
    · exact ⟨[], [], .refl i p s⟩
  | peerTake | device | powerCycle | reset => cases he

/-- Where nothing is planned, a byte moves, or a time unit less is left, or the operation is over (log 2). -/
theorem autoStep_exchange (hs : Exchanging i p s) (hph : s.eng.ph ≠ .idle) (h : autoStep s = .next t) :
    ∃ x y, Exchange i p [] x y s t ∧
      (t.eng.ph = .idle ∨ 0 < x.length + y.length ∨ t.eng.timeLeft < s.eng.timeLeft) := by
  obtain ⟨hbyte, ha⟩ | ⟨_, hdev, _⟩ | ⟨hbyte, _, ha⟩ := autoStep_cases s
  · obtain ⟨x, y, hxy, hpos⟩ := byteStep_exchange hs (ha ▸ h)
    exact ⟨x, y, hxy, .inr (.inl (hpos hbyte))⟩
  · simp [deviceEnabled, hs.peer] at hdev
  · have hnot : s.eng.ph.group ≠ .transmit := fun hg => by simp [byteEnabled, hg] at hbyte
    obtain ⟨hidle, _⟩ | ⟨_, _, rfl⟩ | ⟨_, _, _, rfl⟩ | ⟨_, _, hyes, _⟩ := tick_cases (ha ▸ h)
    · exact absurd hidle hph
    · exact ⟨[], [], exchange_count hs hph, .inr (.inr ((timeLeft_count hs.ok hph).2 hnot))⟩
    · exact ⟨[], [], (Exchange.refl i p s).expire rfl rfl hph, .inl rfl⟩
    · simp [hbyte] at hyes

end

/-! ### Polling as an exchange -/

/-- A bound on the polling steps until the operation of `i` is over: planned events, bytes and time units (log 3). -/
def stepsLeft (i : Instr) (p : List Byte) (s : State) : Nat :=
  s.agenda.length + (s.eng.unsent i p).length + s.eng.toReceive i + s.eng.timeLeft

section
variable {i : Instr} {p : List Byte} {s t : State}

/-- An exchange that moves something leaves fewer steps. -/
theorem Exchange.stepsLeft_lt {used : List Event} {a x y : List Byte} (h : Exchange i p a x y s t)
    (herr : t.eng.status.err = .none) (hagenda : s.agenda = used ++ t.agenda)
    (hmoved : 0 < used.length + x.length + y.length ∨ t.eng.timeLeft < s.eng.timeLeft) :
    stepsLeft i p t < stepsLeft i p s := by
  have htime := h.time herr
  unfold stepsLeft
  rw [hagenda, h.unsent herr, h.toReceive herr, List.length_append, List.length_append]
  omega

/-- A polling step, with the planned events it uses up. -/
theorem pollStep_exchange (hs : Exchanging i p s) (hph : s.eng.ph ≠ .idle) (h : pollStep s = .next t) :
    ∃ used x y, s.agenda = used ++ t.agenda ∧ Exchange i p (peerBytes used) x y s t ∧
      (t.eng.ph = .idle ∨ 0 < used.length + x.length + y.length ∨ t.eng.timeLeft < s.eng.timeLeft) := by
  obtain ⟨e, rest, hagenda, henv⟩ | ⟨_, hauto⟩ := pollStep_cases h
  · have hplan := hs.plan
    have he : e.intrudes = false := hplan e (by simp [hagenda])
    have hs' : Exchanging i p (s.putAgenda rest) :=
      ⟨hs.ok, hs.runs, hs.payload, hs.peer, fun e' he' => hplan e' (by rw [hagenda]; exact List.mem_cons_of_mem _ he')⟩
    obtain ⟨x, y, hxy⟩ := envStep_exchange hs' he henv
    have hrest := (envStep_movesTo (by rintro rfl; cases he) henv).agenda
    refine ⟨[.env e], x, y, by rw [hagenda, hrest]; rfl,
      ⟨hxy.h2d, hxy.d2h, hxy.sent_prefix, hxy.unsent, hxy.toReceive, hxy.time⟩, .inr (.inl ?_)⟩
    rw [List.length_singleton]
    omega
  · obtain ⟨x, y, hxy, hmoved⟩ := autoStep_exchange hs hph hauto
    exact ⟨[], x, y, (autoStep_movesTo hauto).agenda.symm, hxy, by simpa using hmoved⟩

/-- Every polling step keeps the operation in order. -/
theorem pollStep_exchanging (hs : Exchanging i p s) (hph : s.eng.ph ≠ .idle) (h : pollStep s = .next t) :
    Exchanging i p t := by
  have hnoReset : NoReset s := by
    rintro e he rfl
    cases hs.plan _ he
  obtain ⟨hmoves, hside, _⟩ := pollStep_moves hnoReset h
  obtain ⟨hruns, hleaves⟩ := hmoves.leaves hs.runs
  obtain ⟨used, _, _, hagenda, _⟩ := pollStep_exchange hs hph h
  have hpay : t.eng.payload i.payloadLen = some p := by
    rw [Engine.payload, hleaves.txbuf]
    exact hs.payload
  exact ⟨hmoves.keeps (fun _ _ hm => hm.ok) hs.ok, hruns, hpay, hside.peer.trans hs.peer,
    fun e he => hs.plan e (by rw [hagenda]; exact List.mem_append_right _ he)⟩

theorem peerBytes_append (l l' : List Event) : peerBytes (l ++ l') = peerBytes l ++ peerBytes l' := by
  induction l with
  | nil => rfl
  | cons e l ih =>
    cases e with
    | host h => exact ih
    | env v =>
      cases v with
      | peerSend b => exact congrArg (b :: ·) ih
      | engine | peerTake | device | powerCycle | tick | txFail | rxTimeout | reset => exact ih

end

/-- A wait that goes on goes on from where its first step leads. -/
theorem poll_next {n : Nat} {s t : State} (hph : s.eng.ph ≠ .idle) (h : poll (n + 1) s = .next t) :
    ∃ u, pollStep s = .next u ∧ poll n u = .next t := by
  unfold poll at h
  rw [if_neg hph] at h
  split at h
  case h_1 u hu => exact ⟨u, hu, h⟩
  case h_2 => cases h
  case h_3 => cases h

/-- Polling for long enough ends the operation, and the whole wait is one exchange. -/
theorem poll_exchange {i : Instr} {p : List Byte} {t : State} : ∀ (n : Nat) (s : State), Exchanging i p s →
    (s.eng.ph ≠ .idle → stepsLeft i p s ≤ n) → poll n s = .next t →
    t.eng.ph = .idle ∧ ∃ used x y, s.agenda = used ++ t.agenda ∧ Exchange i p (peerBytes used) x y s t := by
  intro n
  induction n with
  | zero =>
    intro s _ hn h
    have hpos := timeLeft_pos s.eng
    have hidle : s.eng.ph = .idle := by
      by_contra hph
      have hle := hn hph
      unfold stepsLeft at hle
      omega
    cases h
    exact ⟨hidle, [], [], [], rfl, .refl i p t⟩
  | succ n ih =>
    intro s hs hn h
    by_cases hph : s.eng.ph = .idle
    · rw [poll_idle _ hph] at h
      cases h
      exact ⟨hph, [], [], [], rfl, .refl i p t⟩
    · obtain ⟨u, hu, h⟩ := poll_next hph h
      have hsu := pollStep_exchanging hs hph hu
      obtain ⟨used, x, y, hagenda, hxy, hmoved⟩ := pollStep_exchange hs hph hu
      by_cases hidle : u.eng.ph = .idle
      · rw [poll_idle _ hidle] at h
        cases h
        exact ⟨hidle, used, x, y, hagenda, hxy⟩
      · have herr := hsu.ok.noErr hidle
        have hless := hxy.stepsLeft_lt herr hagenda (hmoved.resolve_left hidle)
        obtain ⟨hend, used', x', y', hagenda', hxy'⟩ :=
          ih u hsu (fun _ => Nat.le_of_lt_succ (hless.trans_le (hn hph))) h
        refine ⟨hend, used ++ used', x ++ x', y ++ y', ?_, ?_⟩
        · rw [hagenda, hagenda', List.append_assoc]
        · rw [peerBytes_append]
          exact hxy.trans herr hxy'

/-! ### A whole command line -/

/-- The machine as the accepted command begins (41_framer R151). -/
def begun (i : Instr) (s : State) : State := s.putEng ((s.eng.withOperands i).accept (selector i))

section
variable {i : Instr} {s : State}

theorem begun_command (hr : (s.eng.withOperands i).refuses (selector i) = false) :
    (begun i s).eng.command = some i := by
  rw [begun, putEng_eng, accept_accepted hr]
  exact command_withOperands ..

theorem begun_exchanging {p : List Byte} (hs : Inv s) (hpeer : s.peer = .unconstrained)
    (hplan : ∀ e, .env e ∈ s.agenda → e.intrudes = false) (hp : HasPayload i p s)
    (hr : (s.eng.withOperands i).refuses (selector i) = false) : Exchanging i p (begun i s) where
  ok := accepted_ok hr (by simpa using hs.eng.txbuf) (by simpa using hs.eng.rxbuf)
  runs := accepted_runs hr (begun_command hr)
  payload := by
    have htxbuf : (begun i s).eng.txbuf = s.eng.txbuf := by
      rw [begun, putEng_eng, accept_accepted hr, withOperands_txbuf]
    rw [HasPayload, Engine.payload, htxbuf]
    exact hp
  peer := hpeer
  plan := hplan

/-- 41_framer R151: at its beginning a command has its whole frame to send and its whole response to take. -/
theorem begun_toDo (p : List Byte) (hr : (s.eng.withOperands i).refuses (selector i) = false) :
    (begun i s).eng.unsent i p = frameOf i p ∧ (begun i s).eng.toReceive i = responseLen i := by
  rw [begun, putEng_eng, accept_accepted hr]
  exact ⟨(frameOf_eq_trailer i p).symm, rfl⟩

/-- The counter of the wait is large enough (log 3). -/
theorem stepsLeft_begun {p : List Byte} (hl : p.length = i.payloadLen)
    (hr : (s.eng.withOperands i).refuses (selector i) = false) :
    stepsLeft i p (begun i s) ≤ pollLimit (begun i s) := by
  obtain ⟨hunsent, hreceive⟩ := begun_toDo p hr
  have hframe := frameOf_length i p
  have hpay := payloadLen_le i
  have hresponse := responseLen_le (accepted_runs hr (begun_command hr)).wellFormed
  have htime := timeLeft_le (begun i s).eng
  unfold stepsLeft pollLimit
  rw [hunsent, hreceive]
  omega

end

/-- Settles O46: a refused command exchanges nothing and reports its refusal; an accepted one polls until it is over,
and where it completed, nothing of its frame and of its response is left. -/
theorem commandsExchangeExactlyTheirFrames : Obligations.CommandsExchangeExactlyTheirFrames := by
  intro i s t p hs hb hpeer hplan hp h
  rw [exec_free i hb, awaitIdle] at h
  cases hr : (s.eng.withOperands i).refuses (selector i) with
  | true =>
    rw [poll_idle _ (by rw [putEng_eng, accept_refused hr]; simpa using hs.eng.idle_of_free hb)] at h
    cases h
    refine ⟨⟨0, (List.append_nil _).symm⟩, fun herr => ?_⟩
    rw [putEng_eng, accept_refused hr] at herr
    cases herr
  | false =>
    obtain ⟨hidle, used, x, y, hagenda, hxy⟩ := poll_exchange _ (begun i s) (begun_exchanging hs hpeer hplan hp hr)
      (fun _ => stepsLeft_begun (hasPayload_length hp) hr) h
    obtain ⟨hunsent, hreceive⟩ := begun_toDo p hr
    have hnot : t.eng.ph.group ≠ .transmit := by rw [hidle]; decide
    refine ⟨⟨x.length, ?_⟩, fun herr => ?_⟩
    · rw [← hunsent, ← List.prefix_iff_eq_take.1 hxy.sent_prefix]
      exact hxy.h2d
    · have hsent := hxy.unsent herr
      have htaken := hxy.toReceive herr
      rw [hunsent, unsent_of_not_transmit i p hnot, List.append_nil] at hsent
      rw [hreceive, Engine.toReceive, if_neg hnot, Engine.awaited, hidle] at htaken
      exact ⟨hsent ▸ hxy.h2d, used, y, hagenda, htaken.symm, hxy.d2h⟩

end Sys2Proof.Machine
end

section
/-! PROOFS. Time, the free events, and the way out of FAULT (40_transport R123 to R130; 60_exceptions R288, R292). -/

namespace Sys2Proof.Machine

/-! ### One time unit, case by case -/

/-- 40_transport R128: while the timer has not reached its last value, the deadline is compared with the next count. -/
theorem due_iff {e : Engine} (h : e.dlt.toNat < 65535) : e.due = true ↔ e.deadline.toNat ≤ e.dlt.toNat + 1 := by
  rw [Engine.due, succ_toNat e.dlt rfl (by omega), decide_eq_true_eq]

theorem due_eq_false {e : Engine} (h : e.dlt.toNat < 65535) (hd : e.dlt.toNat + 1 < e.deadline.toNat) :
    e.due = false := by
  rw [← Bool.not_eq_true, due_iff h]
  omega

theorem tick_before_deadline {s : State} (hph : s.eng.ph ≠ .idle) (hd : s.eng.due = false) :
    tick s = .next (countUnit s) := by
  rw [tick, if_neg hph, if_neg (Bool.not_eq_true _ ▸ hd)]

theorem tick_expires {s : State} (hph : s.eng.ph ≠ .idle) (hd : s.eng.due = true) (hb : byteEnabled s = false) :
    tick s = .next (expire (countUnit s)) := by
  rw [tick, if_neg hph, if_pos hd, if_neg (Bool.not_eq_true _ ▸ hb)]

/-- 60_exceptions R288 (3), log 13: at the deadline a byte that can move goes first. -/
theorem tick_takes_byte_first {s u : State} (hph : s.eng.ph ≠ .idle) (hd : s.eng.due = true)
    (hb : byteEnabled s = true) (hu : byteStep s = .next u) :
    tick s = .next (if u.eng.ph.group = s.eng.ph.group then expire (countUnit u) else u) := by
  rw [tick, if_neg hph, if_pos hd, if_pos hb, hu]

/-- 60_exceptions R290: what an expiry leaves, where flags and timer still stand as in `s`. -/
theorem expire_countUnit_eq {s u : State} {g : Group} (hg : u.eng.ph.group = g)
    (hstatus : u.eng.status = s.eng.status) (hdlt : u.eng.dlt = s.eng.dlt) :
    expire (countUnit u) = { u with
      eng := { u.eng with
        dlt := s.eng.dlt + 1, ph := .idle
        status := { s.eng.status with err := g.expiry, fault := true, done := true, busy := false } } } := by
  rw [← hg, ← hstatus, ← hdlt]
  rfl

/-! ### A byte after which the group goes on -/

theorem enterRx_not_transmit (e : Engine) : e.enterRx.ph.group ≠ .transmit := by
  rw [enterRx_ph]
  cases hc : e.command with
  | none =>
    rw [Engine.rxPhase, hc]
    decide
  | some i =>
    rw [rxPhase_of_command hc, response_phase_group]
    decide

/-- 41_framer R152 to R154: flags and timer change only where the receive group begins. -/
theorem afterTx_of_transmit {e : Engine} (b : Byte) (hg : e.ph.group = .transmit)
    (hgo : (e.afterTx b).ph.group = .transmit) : (e.afterTx b).status = e.status ∧ (e.afterTx b).dlt = e.dlt := by
  obtain ⟨p, j, _, heq⟩ | ⟨ts, heq⟩ := afterTx_cases b hg
  · rw [heq]
    exact ⟨rfl, rfl⟩
  · rw [heq] at hgo
    exact absurd hgo (enterRx_not_transmit _)

/-- 41_framer R156 to R160: flags change only where the operation ends, and the timer in no byte of the response. -/
theorem afterRx_of_inFlight {e : Engine} (b : Byte) (hgo : (e.afterRx b).ph ≠ .idle) :
    (e.afterRx b).status = e.status ∧ (e.afterRx b).dlt = e.dlt := by
  constructor
  · revert hgo
    unfold Engine.afterRx
    split
    · unfold Engine.afterAck
      split_ifs <;> exact fun hgo => absurd rfl hgo
    · exact fun hgo => absurd rfl hgo
    · unfold Engine.afterRaw
      split_ifs
      · exact fun _ => rfl
      · exact fun hgo => absurd rfl hgo
    · exact fun _ => (storePay_same e b).2.1
    · unfold Engine.afterCsum
      split_ifs <;> exact fun hgo => absurd rfl hgo
    · exact fun _ => rfl
  · obtain ⟨st, r, x, rs, cs, p, j, heq⟩ := afterRx_frame e b
    rw [heq]

theorem byteEnabled_of_transmit {s : State} (hg : s.eng.ph.group = .transmit) : byteEnabled s = true := by
  rw [byteEnabled, hg]

theorem byteEnabled_of_receive {s : State} (hg : s.eng.ph.group = .receive) : byteEnabled s = !s.d2h.isEmpty := by
  rw [byteEnabled, hg]

theorem byteStep_of_transmit {s u : State} (hg : s.eng.ph.group = .transmit) (h : byteStep s = .next u)
    (hgo : u.eng.ph.group = .transmit) : u.eng.status = s.eng.status ∧ u.eng.dlt = s.eng.dlt := by
  obtain ⟨hno, _⟩ | ⟨b, _, _, rfl⟩ | ⟨b, rest, hrx, _, _⟩ := byteStep_cases h
  · simp [byteEnabled_of_transmit hg] at hno
  · exact afterTx_of_transmit b hg hgo
  · simp [hg] at hrx

/-- A byte of the response that does not end the operation leaves the receive group, the flags and the timer. -/
theorem byteStep_of_receive {s u : State} (hg : s.eng.ph.group = .receive) (h : byteStep s = .next u)
    (hgo : u.eng.ph ≠ .idle) :
    u.eng.ph.group = .receive ∧ u.eng.status = s.eng.status ∧ u.eng.dlt = s.eng.dlt := by
  obtain ⟨_, rfl⟩ | ⟨b, htx, _, _⟩ | ⟨b, rest, _, _, rfl⟩ := byteStep_cases h
  · exact ⟨hg, rfl, rfl⟩
  · simp [hg] at htx
  · have hnot : (s.eng.afterRx b).ph.group ≠ .transmit := afterRx_group b (by rw [hg]; decide)
    refine ⟨?_, afterRx_of_inFlight b hgo⟩
    rw [putEng_eng] at hgo ⊢
    cases hph : (s.eng.afterRx b).ph <;> simp_all [Phase.group]

/-! ### The deadline and the free events: O38, O39, O40, O41 -/

/-- Settles O38: no byte can move, so the time unit counts or ends the group. -/
theorem timerExpiresTheReceiveGroup : Obligations.TimerExpiresTheReceiveGroup := by
  intro s hg hd hdlt
  have hph := ne_idle_of_receive hg
  have hno : byteEnabled s = false := by rw [byteEnabled_of_receive hg, hd]; rfl
  refine ⟨fun hbefore => tick_before_deadline hph (due_eq_false hdlt hbefore), fun hat => ?_⟩
  rw [tick_expires hph ((due_iff hdlt).2 hat) hno, expire_countUnit_eq hg rfl rfl]
  rfl

/-- Settles O39: at the deadline the byte goes first, and the expiry applies if the transmit group goes on. -/
theorem timerExpiresTheTransmitGroup : Obligations.TimerExpiresTheTransmitGroup := by
  intro s u hg hdlt
  have hph := ne_idle_of_transmit hg
  have hyes := byteEnabled_of_transmit hg
  refine ⟨fun hbefore => tick_before_deadline hph (due_eq_false hdlt hbefore), fun hat hu hgo => ?_,
    fun hat hu hend => ?_⟩
  · obtain ⟨hstatus, htimer⟩ := byteStep_of_transmit hg hu hgo
    rw [tick_takes_byte_first hph ((due_iff hdlt).2 hat) hyes hu, if_pos (hgo.trans hg.symm),
      expire_countUnit_eq hgo hstatus htimer]
    rfl
  · rw [tick_takes_byte_first hph ((due_iff hdlt).2 hat) hyes hu, if_neg (by rw [hg]; exact hend)]

/-- Settles O40: the byte that waits is taken before the expiry, which applies only if the operation goes on. -/
theorem byteStepBeatsTheDeadline : Obligations.ByteStepBeatsTheDeadline := by
  intro s t hg ht hyes
  have hph := ne_idle_of_receive hg
  refine ⟨fun hend hdue => ?_, fun hdlt hat hgo => ?_, fun hdlt hbefore => ?_⟩
  · rw [tick_takes_byte_first hph hdue hyes ht, if_neg (by rw [hend, hg]; decide)]
  · obtain ⟨hgroup, hstatus, htimer⟩ := byteStep_of_receive hg ht hgo
    rw [tick_takes_byte_first hph ((due_iff hdlt).2 hat) hyes ht, if_pos (hgroup.trans hg.symm),
      expire_countUnit_eq hgroup hstatus htimer]
    rfl
  · exact tick_before_deadline hph (due_eq_false hdlt hbefore)

theorem expire_of_group {s : State} {g : Group} (hg : s.eng.ph.group = g) :
    expire s = { s with eng := s.eng.raiseErr g.expiry } := by
  rw [← hg]
  rfl

/-- Settles O41: each free event looks at the group, and expires only its own. -/
theorem freeEventsExpireTheirGroup : Obligations.FreeEventsExpireTheirGroup := by
  intro s
  refine ⟨fun hg => ?_, fun hg => if_neg hg, fun hg => ?_, fun hg => if_neg hg⟩
  · rw [txFail, if_pos hg, expire_of_group hg]
    rfl
  · rw [rxTimeout, if_pos hg, expire_of_group hg]
    rfl

/-! ### The way out of FAULT: O34 -/

/-- Settles O34: CLOSE ends at IDLE with BUSY = 0 and without a firmware call, and OPEN then clears the flags. -/
theorem closeThenOpenRecovers : Obligations.CloseThenOpenRecovers := by
  intro s hok ho
  have hclose := (closeDropsTheOperation s 0 hok).1 ho
  have hopen := (openClearsTheFlags (hostClose s) (by rw [hclose]) (by rw [hclose]) (by rw [hclose])).1
  rw [hopen, hclose]
  exact ⟨⟨rfl, rfl, rfl, rfl⟩, reset_status_word, rfl, rfl, rfl, rfl⟩

end Sys2Proof.Machine
end

section
/-! PROOFS. Every operation in flight beside the unconstrained peer ends, under any plan (40_transport R128, R130;
70_reset R325). -/

namespace Sys2Proof.Machine

/-! ### What the moves of the block still have to do -/

/-- 41_framer R152 to R154: where the payload bytes have values, the block has a byte to send. -/
theorem exists_txByte {e : Engine} {i : Instr} {p : List Byte} (hrun : e.Runs i)
    (hp : e.payload i.payloadLen = some p) (hg : e.ph.group = .transmit) : ∃ b, e.txByte = some b := by
  unfold Engine.txByte
  obtain hph | hph | hph := transmit_cases hg <;> simp only [hph]
  · exact ⟨_, rfl⟩
  · have hidx : e.idx.toNat < i.payloadLen := by
      have hpay : e.cur = 2 ∧ e.idx.toNat < e.plen := by simpa [Engine.phaseOk, hph] using hrun.phase
      rw [← plen_eq hrun.command]
      exact hpay.2
    have hlen : p.length = i.payloadLen := by rw [readAt_length hp, span, List.length_range']
    rw [read_of_readAt hp (k := e.idx.toNat) (a := e.idx.toNat) (by simp [span, hidx])]
    exact ⟨_, List.getElem?_eq_getElem (by omega)⟩
  · exact ⟨_, rfl⟩

/-- A bound on the moves until the operation of `i` is over: bytes to send, bytes to take and time units. -/
def Engine.movesLeft (e : Engine) (i : Instr) (p : List Byte) : Nat :=
  (e.unsent i p).length + e.toReceive i + e.timeLeft

theorem stepsLeft_eq (i : Instr) (p : List Byte) (s : State) :
    stepsLeft i p s = s.agenda.length + s.eng.movesLeft i p := by
  rw [stepsLeft, Engine.movesLeft]
  omega

/-- The operation of `i` with payload `p` stands in order. -/
structure Engine.Carries (e : Engine) (i : Instr) (p : List Byte) : Prop where
  ok : e.Ok
  runs : e.Runs i
  payload : e.payload i.payloadLen = some p

section
variable {e e' : Engine} {i : Instr} {p : List Byte}

theorem movesLeft_afterTx {b : Byte} (h : e.Carries i p) (hg : e.ph.group = .transmit) (hb : e.txByte = some b) :
    (e.afterTx b).movesLeft i p < e.movesLeft i p := by
  have hunsent := congrArg List.length (unsent_afterTx h.ok h.runs h.payload hg hb)
  have hreceive := toReceive_afterTx b h.runs.command hg
  have hnow : e.timeLeft = 65536 := if_pos hg
  have hthen := timeLeft_le (e.afterTx b)
  rw [List.length_cons] at hunsent
  unfold Engine.movesLeft
  omega

theorem movesLeft_afterRx (b : Byte) (h : e.Carries i p) (hg : e.ph.group = .receive) :
    (e.afterRx b).movesLeft i p < e.movesLeft i p := by
  have hnot : e.ph.group ≠ .transmit := by rw [hg]; decide
  have hreceive := toReceive_afterRx b h.runs hg
  unfold Engine.movesLeft
  rw [unsent_of_not_transmit i p hnot, unsent_of_not_transmit i p (afterRx_group b hnot), timeLeft_afterRx b hg]
  omega

/-- 40_transport R128: a time unit leaves the bytes as they are, and outside the transmit group less time. -/
theorem movesLeft_count (h : e.Carries i p) (hph : e.ph ≠ .idle) :
    ({ e with dlt := e.dlt + 1 } : Engine).movesLeft i p ≤ e.movesLeft i p ∧
      (e.ph.group ≠ .transmit → ({ e with dlt := e.dlt + 1 } : Engine).movesLeft i p < e.movesLeft i p) := by
  obtain ⟨hle, hlt⟩ := timeLeft_count h.ok hph
  exact ⟨Nat.add_le_add_left hle _, fun hnot => Nat.add_lt_add_left (hlt hnot) _⟩

theorem Engine.Move.carries (hm : Engine.Move e e') (h : e.Carries i p) : e'.Carries i p where
  ok := hm.ok h.ok
  runs := hm.runs h.runs
  payload := by
    rw [Engine.payload, (hm.leaves h.runs).txbuf]
    exact h.payload

/-- A move ends the operation or leaves no more to do. -/
theorem Engine.Move.movesLeft_le (hm : Engine.Move e e') (h : e.Carries i p) :
    e'.ph = .idle ∨ e'.movesLeft i p ≤ e.movesLeft i p := by
  cases hm with
  | send b hg hb => exact .inr (movesLeft_afterTx h hg hb).le
  | take b hg => exact .inr (movesLeft_afterRx b h hg).le
  | count hph hd => exact .inr (movesLeft_count h hph).1
  | expire d hph => exact .inl rfl

theorem Engine.Move.inFlight (hm : Engine.Move e e') : e.ph ≠ .idle := by
  cases hm with
  | send b hg hb => exact ne_idle_of_transmit hg
  | take b hg => exact ne_idle_of_receive hg
  | count hph hd => exact hph
  | expire d hph => exact hph

/-- Any number of moves keeps the operation in order, and ends it or leaves no more to do. -/
theorem Engine.Moves.carries (hm : Engine.Moves e e') (h : e.Carries i p) :
    e'.Carries i p ∧ (e'.ph = .idle ∨ e'.movesLeft i p ≤ e.movesLeft i p) := by
  refine hm.keeps (P := fun f => f.Carries i p ∧ (f.ph = .idle ∨ f.movesLeft i p ≤ e.movesLeft i p)) ?_
    ⟨h, .inr le_rfl⟩
  rintro f g hstep ⟨hf, hleft⟩
  have hless := hleft.resolve_left hstep.inFlight
  exact ⟨hstep.carries hf, (hstep.movesLeft_le hf).imp_right fun hle => hle.trans hless⟩

end

/-! ### No step stops -/

section
variable {i : Instr} {p : List Byte} {s t : State}

/-- 10_state R38: a byte step stops only where a payload byte has no value. -/
theorem exists_byteStep (h : s.eng.Carries i p) : ∃ t, byteStep s = .next t := by
  cases hstep : byteStep s with
  | next t => exact ⟨t, rfl⟩
  | fault f =>
    obtain ⟨_, hg, hnone⟩ := byteStep_fault hstep
    obtain ⟨b, hb⟩ := exists_txByte h.runs h.payload hg
    simp [hb] at hnone
  | refused r => exact absurd hstep (byteStep_ne_refused s r)

theorem exists_tick (h : s.eng.Carries i p) : ∃ t, tick s = .next t := by
  obtain ⟨u, hu⟩ := exists_byteStep h
  unfold tick
  rw [hu]
  split_ifs <;> exact ⟨_, rfl⟩

theorem deviceStep_unconstrained (hpeer : s.peer = .unconstrained) : deviceStep s = .next s := by
  rw [deviceStep, hpeer]
  exact if_neg (by decide)

theorem exists_envStep (e : EnvEvent) (h : s.eng.Carries i p) (hpeer : s.peer = .unconstrained) :
    ∃ t, envStep e s = .next t := by
  cases e with
  | engine => exact exists_byteStep h
  | tick => exact exists_tick h
  | device => exact ⟨s, deviceStep_unconstrained hpeer⟩
  | peerSend | peerTake | powerCycle | txFail | rxTimeout | reset => exact ⟨_, rfl⟩

theorem exists_autoStep (h : s.eng.Carries i p) (hpeer : s.peer = .unconstrained) : ∃ t, autoStep s = .next t := by
  obtain ⟨_, ha⟩ | ⟨_, _, ha⟩ | ⟨_, _, ha⟩ := autoStep_cases s <;> rw [ha]
  · exact exists_byteStep h
  · exact ⟨s, deviceStep_unconstrained hpeer⟩
  · exact exists_tick h

theorem exists_pollStep (h : s.eng.Carries i p) (hpeer : s.peer = .unconstrained) : ∃ t, pollStep s = .next t := by
  obtain ⟨e, rest, _, henv⟩ | ⟨_, hauto⟩ := pollStep_cases (rfl : pollStep s = pollStep s)
  · rw [← henv]
    exact exists_envStep (s := s.putAgenda rest) e h hpeer
  · rw [← hauto]
    exact exists_autoStep h hpeer

/-! ### Every step brings the end nearer -/

/-- Where nothing is planned, a byte moves, or time that is left passes, or the operation is over (log 2). -/
theorem autoStep_movesLeft (h : s.eng.Carries i p) (hpeer : s.peer = .unconstrained) (hph : s.eng.ph ≠ .idle)
    (hstep : autoStep s = .next t) : t.eng.ph = .idle ∨ t.eng.movesLeft i p < s.eng.movesLeft i p := by
  obtain ⟨hyes, ha⟩ | ⟨_, hdev, _⟩ | ⟨hno, _, ha⟩ := autoStep_cases s
  · obtain ⟨hno, _⟩ | ⟨b, hg, hb, rfl⟩ | ⟨b, rest, hg, _, rfl⟩ := byteStep_cases (ha ▸ hstep)
    · simp [hno] at hyes
    · exact .inr (movesLeft_afterTx h hg hb)
    · exact .inr (movesLeft_afterRx b h hg)
  · simp [deviceEnabled, hpeer] at hdev
  · have hnot : s.eng.ph.group ≠ .transmit := fun hg => by simp [byteEnabled, hg] at hno
    obtain ⟨hidle, _⟩ | ⟨_, _, rfl⟩ | ⟨_, _, _, rfl⟩ | ⟨_, _, hyes, _⟩ := tick_cases (ha ▸ hstep)
    · exact absurd hidle hph
    · exact .inr ((movesLeft_count h hph).2 hnot)
    · exact .inl rfl
    · simp [hno] at hyes

/-- A step of the peer, of time or of the free events, of the device's power or of the reset input: the plan is left
as it is, and the operation ends (70_reset R325) or goes on with no more to do. -/
theorem envStep_movesLeft {e : EnvEvent} (h : s.eng.Carries i p) (hstep : envStep e s = .next t) :
    t.agenda = s.agenda ∧ t.peer = s.peer ∧
      (t.eng.ph = .idle ∨ t.eng.Carries i p ∧ t.eng.movesLeft i p ≤ s.eng.movesLeft i p) := by
  by_cases hr : e = .reset
  · subst hr
    cases hstep
    exact ⟨rfl, rfl, .inl rfl⟩
  · obtain ⟨hmoves, hside, hagenda⟩ := envStep_movesTo hr hstep
    obtain ⟨hcarries, hleft⟩ := hmoves.carries h
    exact ⟨hagenda, hside.peer, hleft.imp_right fun hle => ⟨hcarries, hle⟩⟩

/-- A polling step ends the operation or leaves fewer steps, a planned event among them. -/
theorem pollStep_stepsLeft (h : s.eng.Carries i p) (hpeer : s.peer = .unconstrained) (hph : s.eng.ph ≠ .idle)
    (hstep : pollStep s = .next t) :
    t.peer = .unconstrained ∧
      (t.eng.ph = .idle ∨ t.eng.Carries i p ∧ stepsLeft i p t < stepsLeft i p s) := by
  rw [stepsLeft_eq, stepsLeft_eq]
  obtain ⟨e, rest, hplan, henv⟩ | ⟨_, hauto⟩ := pollStep_cases hstep
  · obtain ⟨hagenda, hside, hleft⟩ := envStep_movesLeft (s := s.putAgenda rest) h henv
    refine ⟨hside.trans hpeer, hleft.imp_right fun ⟨hcarries, hle⟩ => ⟨hcarries, ?_⟩⟩
    rw [putAgenda_eng] at hle
    rw [hagenda, hplan, putAgenda_agenda, List.length_cons]
    omega
  · obtain ⟨hmoves, hside, hagenda⟩ := autoStep_movesTo hauto
    refine ⟨hside.peer.trans hpeer, (autoStep_movesLeft h hpeer hph hauto).imp_right fun hlt => ?_⟩
    rw [hagenda]
    exact ⟨(hmoves.carries h).1, Nat.add_lt_add_left hlt _⟩

end

/-- 40_transport R130: polling for long enough ends the operation, whatever is planned. -/
theorem poll_ends {i : Instr} {p : List Byte} : ∀ (n : Nat) (s : State), s.peer = .unconstrained →
    (s.eng.ph = .idle ∨ s.eng.Carries i p ∧ stepsLeft i p s ≤ n) → ∃ t, poll n s = .next t ∧ t.eng.ph = .idle := by
  intro n
  induction n with
  | zero =>
    rintro s _ (hidle | ⟨_, hle⟩)
    · exact ⟨s, poll_idle 0 hidle, hidle⟩
    · have hpos := timeLeft_pos s.eng
      unfold stepsLeft at hle
      omega
  | succ n ih =>
    intro s hpeer hs
    by_cases hph : s.eng.ph = .idle
    · exact ⟨s, poll_idle _ hph, hph⟩
    · obtain ⟨hcarries, hle⟩ := hs.resolve_left hph
      obtain ⟨u, hu⟩ := exists_pollStep hcarries hpeer
      obtain ⟨hpeer', hnext⟩ := pollStep_stepsLeft hcarries hpeer hph hu
      rw [poll_step n hph hu]
      exact ih u hpeer' (hnext.imp_right fun ⟨hc, hlt⟩ => ⟨hc, Nat.le_of_lt_succ (hlt.trans_le hle)⟩)

/-- 41_framer R151: the payload of an accepted command stands in TXBUF as before. -/
theorem begun_payload {i : Instr} {s : State} {p : List Byte}
    (hr : (s.eng.withOperands i).refuses (selector i) = false) (hp : HasPayload i p s) :
    (begun i s).eng.payload i.payloadLen = some p := by
  have htxbuf : (begun i s).eng.txbuf = s.eng.txbuf := by
    rw [begun, putEng_eng, accept_accepted hr, withOperands_txbuf]
  rw [Engine.payload, htxbuf]
  exact hp

/-- 41_framer R151: an accepted command begins in order. -/
theorem begun_carries {i : Instr} {s : State} {p : List Byte} (hs : s.eng.Ok)
    (hr : (s.eng.withOperands i).refuses (selector i) = false) (hp : HasPayload i p s) :
    (begun i s).eng.Carries i p :=
  ⟨accepted_ok hr (by simpa using hs.txbuf) (by simpa using hs.rxbuf), accepted_runs hr (begun_command hr),
    begun_payload hr hp⟩

/-- Settles O45: a refused command leaves the engine idle, and an accepted one is polled for more steps than any
operation can take. -/
theorem everyCommandEndsIdle : Obligations.EveryCommandEndsIdle := by
  intro i s p hs hb hpeer hp
  rw [exec_free i hb, awaitIdle]
  cases hr : (s.eng.withOperands i).refuses (selector i) with
  | true =>
    refine poll_ends (i := i) (p := p) _ _ hpeer (.inl ?_)
    rw [putEng_eng, accept_refused hr]
    exact (withOperands_ph s.eng i).trans (hs.eng.idle_of_free hb)
  | false =>
    exact poll_ends _ (begun i s) hpeer
      (.inr ⟨begun_carries hs.eng hr hp, stepsLeft_begun (hasPayload_length hp) hr⟩)

end Sys2Proof.Machine
end

section
/-! PROOFS. What a silent peer and a transmit failure leave behind (60_exceptions R282, R283, R289, R290). -/

namespace Sys2Proof.Machine

/-! ### A silent peer: O31 -/

/-- Settles O31: the whole frame is sent, and then the receive group runs out its time. -/
theorem silentPeerEndsInIoRead : Obligations.SilentPeerEndsInIoRead := by
  intro s i p hr ⟨hq, hd, hpeer⟩ hw hp
  obtain ⟨n, hn, he⟩ := exec_ready hr hq hw hp
  have hdeadline : (s.eng.sent i p).deadline = s.eng.deadline := withOperands_deadline s.eng i
  rw [he, poll_times_out (s := responding s i p) hq hpeer (response_phase_group _) hd rfl (by omega),
    ← sent_atRest i p hr.idle, ← hdeadline]
  rfl

/-! ### The bytes sent before a transmit failure -/

section
variable {e : Engine} {i : Instr} {p : List Byte}

theorem transmit_of_unsent (h : e.unsent i p ≠ []) : e.ph.group = .transmit := by
  by_contra hg
  exact h (unsent_of_not_transmit i p hg)

theorem trailer_length_le (i : Instr) (p : List Byte) : (trailer i p).length ≤ 1 := by
  unfold trailer
  split_ifs <;> simp

/-- 41_framer R152, R153: a byte that is sent before the last of the frame is the next of it, whatever the sums hold. -/
theorem unsent_afterTx_of_more {b : Byte} (hrun : e.Runs i) (hp : e.payload i.payloadLen = some p)
    (hmore : 1 < (e.unsent i p).length) (hb : e.txByte = some b) :
    e.unsent i p = b :: (e.afterTx b).unsent i p := by
  have hg : e.ph.group = .transmit := transmit_of_unsent (List.ne_nil_of_length_pos (Nat.zero_lt_of_lt hmore))
  unfold Engine.afterTx
  obtain hph | hph | hph := transmit_cases hg <;> simp only [hph]
  · exact unsent_afterHdr hrun (by rw [readAt_length hp, span, List.length_range']) hph hb
  · exact unsent_afterPay hrun hp hph hb
  · have hlast : e.unsent i p = trailer i p := by rw [Engine.unsent, hph]
    have hle := trailer_length_le i p
    rw [hlast] at hmore
    omega

/-- 95 M-4: where IDX stands before byte `k` of the frame is sent. -/
theorem idx_of_unsent {k : Nat} (hrun : e.Runs i) (hl : p.length = i.payloadLen)
    (hleft : e.unsent i p = (frameOf i p).drop k) (hk : k < (frameOf i p).length) :
    e.idx.toNat =
      if k < (encode i).length then k
      else if k < (encode i).length + p.length then k - (encode i).length
      else 0 := by
  have hlen := congrArg List.length hleft
  have htrailer := trailer_length_le i p
  have hg : e.ph.group = .transmit :=
    transmit_of_unsent (by rw [hleft]; simpa using hk)
  have hphase := hrun.phase
  rw [List.length_drop] at hlen
  rw [frameOf_eq_trailer, List.length_append, List.length_append] at hlen hk
  obtain hph | hph | hph := transmit_cases hg <;> rw [Engine.unsent, hph] at hlen <;>
    simp only [Engine.phaseOk, hph, hdr_eq hrun.command, plen_eq hrun.command, Bool.and_eq_true,
      decide_eq_true_eq, List.length_append, List.length_drop] at hphase hlen
  · rw [if_pos (by omega)]
    omega
  · rw [if_neg (by omega), if_pos (by omega)]
    omega
  · rw [if_neg (by omega), if_neg (by omega), hphase.2]
    rfl

/-- From `e` to `e'` nothing has changed but what bytes of the request change: TXSUM, PH, IDX and the timer. -/
def Engine.OnlySends (e e' : Engine) : Prop := ∃ ts q j d, e' = { e with txsum := ts, ph := q, idx := j, dlt := d }

theorem Engine.OnlySends.refl (e : Engine) : e.OnlySends e := ⟨e.txsum, e.ph, e.idx, e.dlt, rfl⟩

theorem Engine.OnlySends.trans {e f g : Engine} : e.OnlySends f → f.OnlySends g → e.OnlySends g := by
  rintro ⟨ts, q, j, d, rfl⟩ ⟨ts', q', j', d', rfl⟩
  exact ⟨ts', q', j', d', rfl⟩

theorem afterTx_onlySends (e : Engine) (b : Byte) : e.OnlySends (e.afterTx b) := afterTx_frame e b

theorem Engine.OnlySends.payload {e e' : Engine} (h : e.OnlySends e') (n : Nat) : e'.payload n = e.payload n := by
  obtain ⟨ts, q, j, d, rfl⟩ := h
  rfl

end

/-- The polling step of a planned engine step in a transmit phase. -/
theorem pollStep_engine {s : State} {b : Byte} {rest : List Event} (hplan : s.agenda = .env .engine :: rest)
    (hg : s.eng.ph.group = .transmit) (hb : s.eng.txByte = some b) :
    pollStep s = .next { s with agenda := rest, h2d := s.h2d ++ [b], eng := s.eng.afterTx b } := by
  rw [pollStep, hplan]
  exact byteStep_transmit (s := s.putAgenda rest) hg hb

/-- 41_framer R152 to R154: `k` planned engine steps send the next `k` bytes of a frame that goes on after them. -/
theorem poll_sends {i : Instr} {p : List Byte} {rest : List Event} (n : Nat) : ∀ (k : Nat) (s : State), s.eng.Runs i →
    s.eng.payload i.payloadLen = some p → k < (s.eng.unsent i p).length →
    s.agenda = List.replicate k (.env .engine) ++ rest →
    ∃ e, s.eng.OnlySends e ∧ e.Runs i ∧ e.unsent i p = (s.eng.unsent i p).drop k ∧
      poll (n + k) s = poll n { s with agenda := rest, h2d := s.h2d ++ (s.eng.unsent i p).take k, eng := e } := by
  intro k
  induction k with
  | zero =>
    intro s hrun _ _ hplan
    refine ⟨s.eng, .refl _, hrun, rfl, ?_⟩
    rw [List.take_zero, List.append_nil, ← show s.agenda = rest from hplan]
    rfl
  | succ k ih =>
    intro s hrun hp hk hplan
    have hg := transmit_of_unsent (List.ne_nil_of_length_pos (Nat.zero_lt_of_lt hk))
    obtain ⟨b, hb⟩ := exists_txByte hrun hp hg
    have hcons := unsent_afterTx_of_more hrun hp (by omega) hb
    have hsends := afterTx_onlySends s.eng b
    rw [hcons, List.length_cons] at hk
    obtain ⟨e, honly, hruns, hleft, hpoll⟩ := ih
      { s with agenda := List.replicate k (.env .engine) ++ rest, h2d := s.h2d ++ [b], eng := s.eng.afterTx b }
      ((Engine.Move.send b hg hb).runs hrun) (by rw [hsends.payload]; exact hp) (Nat.lt_of_succ_lt_succ hk) rfl
    refine ⟨e, hsends.trans honly, hruns, ?_, ?_⟩
    · rw [hcons, List.drop_succ_cons, hleft]
    · rw [← Nat.add_assoc, poll_step _ (ne_idle_of_transmit hg) (pollStep_engine hplan hg hb)]
      refine hpoll.trans ?_
      rw [hcons, List.take_succ_cons, List.append_assoc, List.singleton_append]

/-- The polling step of a planned transmit failure (40_transport R129). -/
theorem pollStep_txFail {s : State} {rest : List Event} (hplan : s.agenda = .env .txFail :: rest)
    (hg : s.eng.ph.group = .transmit) :
    pollStep s = .next { s with agenda := rest, eng := s.eng.raiseErr .ioWrite } := by
  rw [pollStep, hplan]
  exact congrArg Host.Outcome.next ((freeEventsExpireTheirGroup (s.putAgenda rest)).1 hg)

/-- A command whose transmit group fails before byte `k` of its frame, on a block that accepts it. -/
theorem exec_tx_fails {i : Instr} {s : State} {p : List Byte} {k : Nat} {rest : List Event}
    (hb : s.eng.status.busy = false) (hr : (s.eng.withOperands i).refuses (selector i) = false)
    (hp : HasPayload i p s) (hk : k < (frameOf i p).length)
    (hplan : s.agenda = List.replicate k (.env .engine) ++ .env .txFail :: rest) :
    ∃ e, (begun i s).eng.OnlySends e ∧ e.Runs i ∧ e.unsent i p = (frameOf i p).drop k ∧
      exec i s = .next { s with
        agenda := rest, h2d := s.h2d ++ (frameOf i p).take k, eng := e.raiseErr .ioWrite } := by
  have hunsent := (begun_toDo p hr).1
  have hlimit : ∃ n, pollLimit (begun i s) = n + 1 + k := by
    have hlen : (begun i s).agenda.length = k + (rest.length + 1) := by
      rw [begun, putEng_agenda, hplan, List.length_append, List.length_replicate, List.length_cons]
    exact ⟨rest.length + (begun i s).h2d.length + 400000, by rw [pollLimit, hlen]; omega⟩
  obtain ⟨n, hn⟩ := hlimit
  obtain ⟨e, honly, hruns, hleft, hpoll⟩ := poll_sends (n + 1) k (begun i s) (accepted_runs hr (begun_command hr))
    (begun_payload hr hp) (by rw [hunsent]; exact hk) hplan
  rw [hunsent] at hleft hpoll
  have hg : e.ph.group = .transmit := transmit_of_unsent (by rw [hleft]; simpa using hk)
  refine ⟨e, honly, hruns, hleft, ?_⟩
  calc exec i s = poll (n + 1 + k) (begun i s) := by rw [exec_free i hb, awaitIdle, ← hn]; rfl
    _ = _ := hpoll
    _ = _ := poll_step n (ne_idle_of_transmit hg) (pollStep_txFail rfl hg)
    _ = _ := poll_idle n rfl

/-- Settles O33: the planned engine steps send the first `k` bytes, and the failure ends the group where it stands. -/
theorem transmitFailureCutsTheFrame : Obligations.TransmitFailureCutsTheFrame := by
  intro s i p k rest ⟨ho, _, hb, hf⟩ hw hp hk hplan
  have hr := not_refuses ho hf hw
  obtain ⟨e, ⟨ts, q, j, d, he⟩, hruns, hleft, hexec⟩ := exec_tx_fails hb hr hp hk hplan
  have hidx := idx_of_unsent hruns (hasPayload_length hp) hleft hk
  rw [begun, putEng_eng, accept_accepted hr] at he
  refine ⟨_, hexec, rfl, rfl, rfl, rfl, rfl, ?_, ?_, ?_, ?_, ?_, hidx⟩ <;> rw [he]
  · exact congrArg (fun st => (Status.accepted st).raised .ioWrite) (withOperands_status s.eng i)
  · rfl
  · exact withOperands_res s.eng i
  · exact withOperands_rxbuf s.eng i
  · exact withOperands_txbuf s.eng i

end Sys2Proof.Machine
end

section
/-! PROOFS. The laws of the checksum (41_framer R146). -/

namespace Sys2Proof.Machine

/-- 41_framer R146: the order of the bytes does not matter, since each counts with its value modulo 256. -/
theorem sum8_perm {s t : List Byte} (h : s.Perm t) : sum8 s = sum8 t := by
  apply BitVec.eq_of_toNat_eq
  rw [sum8_toNat, sum8_toNat, (h.map BitVec.toNat).sum_eq]

/-- 41_framer R146: 256 copies of a byte sum to a multiple of 256. -/
theorem sum8_replicate_256 (b : Byte) : sum8 (List.replicate 256 b) = 0 := by
  apply BitVec.eq_of_toNat_eq
  rw [sum8_toNat, List.map_replicate, List.sum_replicate, smul_eq_mul, Nat.mul_mod_right]
  rfl

/-- 41_framer R146: the accumulator form, from any value of the accumulator. -/
theorem foldl_add_eq_add_sum8 (s : List Byte) : ∀ acc : Byte, s.foldl (fun acc b => acc + b) acc = acc + sum8 s := by
  induction s with
  | nil => exact fun acc => (BitVec.add_zero acc).symm
  | cons b s ih =>
    intro acc
    rw [List.foldl_cons, ih, sum8_cons, BitVec.add_assoc]

/-- Settles O8: the sum over a concatenation, under permutation, of 256 copies, and as an accumulator. -/
theorem checksumLaws : Obligations.ChecksumLaws := by
  refine ⟨sum8_append, fun s t => sum8_perm, fun s b => ?_, fun s => ?_⟩
  · rw [sum8_append, sum8_replicate_256, add_zero]
  · rw [foldl_add_eq_add_sum8, zero_add]

end Sys2Proof.Machine
end

section
/-! PROOFS. Acceptance: which writes of CMD and which command lines are refused, and what they leave (41_framer R151;
60_exceptions R286). -/

namespace Sys2Proof.Machine

/-- 41_framer R151: the causes of a refusal, for the value written to CMD. -/
theorem refuses_setWidth_iff (e : Engine) (v : HostWord) :
    e.refuses (v.setWidth 4) = true ↔
      e.isOpen = false ∨ e.status.fault = true ∨ 10 ≤ v.toNat % 16 ∨
        ((v.toNat % 16 = 2 ∨ v.toNat % 16 = 3) ∧ (e.npages = 0 ∨ Config.maxPages < e.npages.toNat)) := by
  have hsel (k : BitVec 4) : v.setWidth 4 = k ↔ v.toNat % 16 = k.toNat := by
    rw [BitVec.toNat_eq, BitVec.toNat_setWidth]
  rw [refuses_iff, BitVec.toNat_setWidth, hsel, hsel]
  rfl

/-- Settles O11: the lock while BUSY, and acceptance's two outcomes otherwise. -/
theorem commandWriteAcceptance : Obligations.CommandWriteAcceptance := by
  refine fun s v => ⟨fun hb => ?dropped, fun hb hcause => ?refused, fun hb hopen hfault hsel hpages => ?accepted⟩
  case dropped =>
    rw [writeReg, lockedWrite_busy hb]
    rfl
  case refused =>
    rw [writeReg, lockedWrite_free hb, accept_refused ((refuses_setWidth_iff s.eng v).2 hcause)]
    rfl
  case accepted =>
    have hr : s.eng.refuses (v.setWidth 4) = false := by
      rw [← Bool.not_eq_true, refuses_setWidth_iff]
      rintro (h | h | h | ⟨h, h0 | hmax⟩)
      · rw [hopen] at h
        cases h
      · rw [hfault] at h
        cases h
      · omega
      · exact (hpages h).1 h0
      · exact absurd (hpages h).2 (by omega)
    rw [writeReg, lockedWrite_free hb, accept_accepted hr, setWidth_eq_ofNat_mod]
    rfl

/-- 10_state R23: the page count that makes a command ill-formed makes acceptance refuse it. -/
theorem refuses_of_not_wellFormed (e : Engine) {i : Instr} (hw : i.wellFormed = false) :
    (e.withOperands i).refuses (selector i) = true := by
  have hpages {n : Byte} (h : legalPages n = false) : n = 0 ∨ Config.maxPages < n.toNat := by
    simpa [legalPages, or_iff_not_imp_left] using h
  rw [refuses_iff]
  cases i with
  | zw n bh ah => exact .inr (.inr (.inr ⟨.inl rfl, hpages hw⟩))
  | zr n bh ah => exact .inr (.inr (.inr ⟨.inr rfl, hpages hw⟩))
  | vv | ns | br | brr | bs | be | bes | ber => cases hw

/-- 60_exceptions R286: a refused command line ends at once; it leaves its operands, DONE and PRECOND. -/
theorem exec_refused {i : Instr} {s : State} (hb : s.eng.status.busy = false) (hph : s.eng.ph = .idle)
    (hr : (s.eng.withOperands i).refuses (selector i) = true) :
    exec i s = .next { s with
      eng := { s.eng.withOperands i with status := { s.eng.status with done := true, err := .precond } } } := by
  have hidle : (s.putEng ((s.eng.withOperands i).accept (selector i))).eng.ph = .idle := by
    rw [putEng_eng, accept_refused hr]
    exact (withOperands_ph s.eng i).trans hph
  rw [exec_free i hb, awaitIdle, poll_idle _ hidle, accept_refused hr, withOperands_status]
  rfl

/-- Settles O27: each of the three causes makes acceptance refuse the line. -/
theorem refusedCommandsSendNothing : Obligations.RefusedCommandsSendNothing := by
  intro s i hb hph hcause
  refine exec_refused hb hph ?_
  rcases hcause with hclosed | hfault | hw
  · exact (refuses_iff _ _).2 (.inl ((withOperands_isOpen s.eng i).trans hclosed))
  · exact (refuses_iff _ _).2 (.inr (.inl (by rwa [withOperands_status])))
  · exact refuses_of_not_wellFormed s.eng hw

end Sys2Proof.Machine
end

section
/-! PROOFS. The bank commands, acknowledged and not, and the checksummed responses of `NS` and `ZR`, on a block at rest
(44_bank R200, R202, R203; 41_framer R143, R144, R160). -/

namespace Sys2Proof.Machine

/-! ### Acknowledged commands -/

/-- 30_encoding R99: the frame of a command with one parameter byte and no payload. -/
theorem frameOf_of_encode {i : Instr} {c0 c1 d : Byte} (he : encode i = [c0, c1, d]) (hck : i.checksummed = true) :
    frameOf i [] = [c0, c1, d, c0 + c1 + d] := by
  simp [frameOf_eq, hck, he, BitVec.add_assoc]

/-- Settles O25: the acknowledgement that waits completes each of the three commands. -/
theorem setBankCommandsComplete : Obligations.SetBankCommandsComplete := by
  intro s b rest hr hq hd
  refine ⟨?br, ?bs, ?be⟩
  all_goals
    rw [exec_ack rfl hr hq rfl (hasPayload_of_none rfl s) hd, frameOf_of_encode rfl rfl]
    rfl

/-- Settles O29: the byte that waits is no acknowledgement. -/
theorem wrongAcknowledgementIsNak : Obligations.WrongAcknowledgementIsNak :=
  fun _ _ _ _ _ hr hq hi hw hp hd hk => exec_nak hi hr hq hw hp hd hk

/-! ### Checksummed responses -/

/-- A command with a checksummed response: the payload that waits is stored, and the checksum byte after it ends the
operation one way or another (41_framer R159, R160). -/
theorem exec_checksummed {i : Instr} {s : State} {p rest : List Byte} {c : Byte}
    (hphase : Response.phase i.response = .rxPay) (hpos : 0 < payloadBack i) (hr : Ready s) (hq : Quiet s)
    (hw : i.wellFormed = true) (hp : HasPayload i [] s) (hd : s.d2h = p ++ c :: rest)
    (hl : p.length = payloadBack i) :
    exec i s = .next { s with
      h2d := s.h2d ++ frameOf i [], d2h := rest, eng := (s.eng.holding i p).afterCsum c } := by
  obtain ⟨n, hn, he⟩ := exec_payload hphase hpos hr hq hw hp hd hl.le
  obtain ⟨m, rfl⟩ : ∃ k, n = k + 1 := ⟨n - 1, by omega⟩
  have hcsum : (s.eng.holding i p).ph = .rxCsum := if_pos hl
  have hafter : (s.eng.holding i p).afterRx c = (s.eng.holding i p).afterCsum c := by rw [Engine.afterRx, hcsum]
  have hend : ((s.eng.holding i p).afterCsum c).ph = .idle := by
    unfold Engine.afterCsum
    split_ifs <;> rfl
  rw [he, poll_receive m (s := receiving s i p (c :: rest)) hq (congrArg Phase.group hcsum) rfl,
    show (receiving s i p (c :: rest)).eng = s.eng.holding i p from rfl, hafter, poll_idle _ hend]
  rfl

/-- 41_framer R160: a checksum byte that is right, or not enforced, completes the command. -/
theorem afterCsum_completes {e : Engine} {i : Instr} {p : List Byte} {c : Byte}
    (hc : c = sum8 p ∨ e.csumEnforce = false) :
    (e.holding i p).afterCsum c = { e.holding i p with
      rxcs := c, idx := 0, ph := .idle, status := e.status.after (decide (c ≠ sum8 p)) } := by
  have henforce : (e.holding i p).csumEnforce = e.csumEnforce := withOperands_csumEnforce e i
  unfold Engine.afterCsum
  by_cases heq : c = sum8 p
  · rw [if_pos (show c = (e.holding i p).rxsum from heq), decide_eq_false (not_not_intro heq)]
    rfl
  · rw [if_neg (show ¬ c = (e.holding i p).rxsum from heq), henforce, hc.resolve_left heq, decide_eq_true heq]
    rfl

/-- 41_framer R160, 60_exceptions R285: a wrong checksum byte under CSUM_ENFORCE ends the command with CSUM. -/
theorem afterCsum_fails {e : Engine} {i : Instr} {p : List Byte} {c : Byte} (henforce : e.csumEnforce = true)
    (hc : c ≠ sum8 p) :
    (e.holding i p).afterCsum c = { e.holding i p with
      rxcs := c, ph := .idle, status := e.status.failed true .csum } := by
  have hkept : (e.holding i p).csumEnforce = true := (withOperands_csumEnforce e i).trans henforce
  rw [Engine.afterCsum, if_neg (show ¬ c = (e.holding i p).rxsum from hc), if_pos hkept]
  rfl

/-- Settles O22: the nine bytes that wait are stored, and the checksum byte after them completes the query. -/
theorem nsStoresTheSerialPayload : Obligations.NsStoresTheSerialPayload := by
  intro s p rest c hr hq hl hd hc
  rw [exec_checksummed (i := .ns) rfl (by decide) hr hq rfl rfl hd hl, afterCsum_completes hc,
    ← sent_atRest .ns [] hr.idle]
  rfl

/-- Settles O30: the payload that waits is stored, and the checksum byte after it is wrong and enforced. -/
theorem enforcedMismatchIsCsumError : Obligations.EnforcedMismatchIsCsumError := by
  intro s p rest c hr hq henforce hc hd
  refine ⟨fun hl => ?ns, fun n bh ah hn hl => ?zr⟩
  case ns =>
    have hidx : BitVec.ofNat 16 p.length = 9 := by rw [hl]; rfl
    rw [exec_checksummed (i := .ns) rfl (by decide) hr hq rfl rfl hd hl, afterCsum_fails henforce hc,
      ← sent_atRest .ns [] hr.idle, ← hidx]
    rfl
  case zr =>
    rw [exec_checksummed (i := .zr n bh ah) rfl (payloadBack_zr_pos hn bh ah) hr hq hn rfl hd hl,
      afterCsum_fails henforce hc, frameOf_zr, ← sent_atRest (.zr n bh ah) [] hr.idle, ← hl]
    rfl

end Sys2Proof.Machine
end

section
/-! PROOFS. The byte steps, row by row of the transition table (41_framer R156 to R158, R163). -/

namespace Sys2Proof.Machine

/-! ### The receive steps without a checksum -/

/-- Settles O36: in each of the three phases the byte step takes the head of `d2h`. -/
theorem uncheckedReceiveSteps : Obligations.UncheckedReceiveSteps := by
  intro s b rest
  have hstep {p : Phase} (hd : s.d2h = b :: rest) (hph : s.eng.ph = p) (hg : p.group = .receive) :
      byteStep s = .next { s with d2h := rest, eng := s.eng.afterRx b } :=
    byteStep_receive (hph ▸ hg) hd
  refine ⟨fun hph => ?enabled, fun hd hph hk => ?ack, fun hd hph hk => ?nak, fun hd hph => ?byte,
    fun hd hph hmore => ?raw, fun hd hph hlast => ?rawLast⟩
  case enabled =>
    simp only [List.mem_cons, List.not_mem_nil, or_false] at hph
    refine byteEnabled_of_receive ?_
    rcases hph with h | h | h <;> rw [h] <;> rfl
  case ack => rw [hstep hd hph rfl, Engine.afterRx, hph]; simp only [Engine.afterAck, if_pos hk]
  case nak => rw [hstep hd hph rfl, Engine.afterRx, hph]; simp only [Engine.afterAck, if_neg hk]; rfl
  case byte => rw [hstep hd hph rfl, Engine.afterRx, hph]; rfl
  case raw => rw [hstep hd hph rfl, Engine.afterRx, hph]; simp only [Engine.afterRaw, if_pos hmore]; rfl
  case rawLast => rw [hstep hd hph rfl, Engine.afterRx, hph]; simp only [Engine.afterRaw, if_neg hlast]; rfl

/-! ### The table's columns, for the command in flight -/

section
variable {e : Engine} {i : Instr}

/-- 30_encoding R95, R99: the length of the header, by selector. -/
theorem hdr_length_eq (h : e.Runs i) : e.hdr.length = headerLen e.cur := by
  rw [hdr_eq h.command, cur_of_command h.command]
  cases i <;> rfl

/-- 30_encoding R95: `ZW` alone has a payload. -/
theorem plen_pos_iff (h : e.Runs i) : 0 < e.plen ↔ e.cur = 2 := by
  have hw := h.wellFormed
  rw [plen_eq h.command, cur_of_command h.command]
  cases i with
  | zw n bh ah =>
    have hn : 0 < n.toNat := ((legalPages_iff n).1 hw).1
    simpa [Instr.payloadLen, selector] using hn
  | vv | ns | zr | br | brr | bs | be | bes | ber => simp [Instr.payloadLen, selector]

/-- 30_encoding R95: `VV` alone has no checksum. -/
theorem checksummed_iff (h : e.Runs i) : e.checksummed = true ↔ e.cur ≠ 0 := by
  rw [checksummed_eq h.command, cur_of_command h.command]
  cases i <;> simp [Instr.checksummed, selector]

/-- 41_framer R155: the receive group of `VV`. -/
theorem rxPhase_of_cur_zero (h : e.cur = 0) : e.rxPhase = .rxRaw := by
  rw [rxPhase_of_command (i := .vv) (by rw [Engine.command, h]; rfl)]
  rfl

/-- 41_framer R153: the length of the payload of `ZW`. -/
theorem plen_of_cur_two (h : e.cur = 2) : e.plen = 256 * e.npages.toNat :=
  plen_eq (i := .zw e.npages e.bankhi e.addrhi) (by rw [Engine.command, h]; rfl)

/-- 41_framer R155: the length of a checksummed response, by selector. -/
theorem rlen_of_cur (h : e.cur = 1 ∨ e.cur = 3) : e.rlen = if e.cur = 1 then 9 else 256 * e.npages.toNat := by
  rcases h with h | h
  · rw [if_pos h]
    exact rlen_eq (i := .ns) (by rw [Engine.command, h]; rfl)
  · rw [if_neg (by rw [h]; decide)]
    exact rlen_eq (i := .zr e.npages e.bankhi e.addrhi) (by rw [Engine.command, h]; rfl)

/-! ### Where PH goes -/

theorem tableNext_txHdr (h : e.ph = .txHdr) : e.tableNext =
    if e.idx.toNat + 1 < headerLen e.cur then .txHdr
    else if e.cur = 2 then .txPay else if e.cur = 0 then .rxRaw else .txCsum := by
  rw [Engine.tableNext, h]

theorem tableNext_txPay (h : e.ph = .txPay) :
    e.tableNext = if e.idx.toNat + 1 < 256 * e.npages.toNat then .txPay else .txCsum := by
  rw [Engine.tableNext, h]

theorem tableNext_txCsum (h : e.ph = .txCsum) : e.tableNext =
    if e.cur = 1 ∨ e.cur = 3 then .rxPay
    else if e.cur = 2 ∨ e.cur = 4 ∨ e.cur = 6 ∨ e.cur = 7 then .rxAck else .rxByte := by
  rw [Engine.tableNext, h]

theorem tableNext_rxRaw (h : e.ph = .rxRaw) : e.tableNext = if e.idx.toNat < 2 then .rxRaw else .idle := by
  rw [Engine.tableNext, h]

theorem tableNext_rxPay (h : e.ph = .rxPay) : e.tableNext =
    if e.idx.toNat + 1 < (if e.cur = 1 then 9 else 256 * e.npages.toNat) then .rxPay else .rxCsum := by
  rw [Engine.tableNext, h]

/-- 41_framer R163: one byte of acknowledgement, reply or checksum ends the operation. -/
theorem tableNext_last (h : e.ph = .rxAck ∨ e.ph = .rxByte ∨ e.ph = .rxCsum) : e.tableNext = .idle := by
  rcases h with h | h | h <;> rw [Engine.tableNext, h]

/-- 41_framer R163, the rows of TX_HDR. -/
theorem afterHdr_ph (b : Byte) (h : e.Runs i) (hph : e.ph = .txHdr) : (e.afterHdr b).ph = e.tableNext := by
  have hlen := hdr_length_eq h
  have hplen := plen_pos_iff h
  have hck := checksummed_iff h
  rw [tableNext_txHdr hph]
  unfold Engine.afterHdr
  simp only [hlen, hplen, hck, ne_eq, ite_not]
  split_ifs with hmore hzw hvv
  · exact hph
  · rfl
  · exact rxPhase_of_cur_zero hvv
  · rfl

/-- 41_framer R163, the rows of TX_PAY. -/
theorem afterPay_ph (b : Byte) (h : e.Runs i) (hph : e.ph = .txPay) : (e.afterPay b).ph = e.tableNext := by
  have hpay : e.cur = 2 ∧ e.idx.toNat < e.plen := by simpa [Engine.phaseOk, hph] using h.phase
  rw [tableNext_txPay hph]
  unfold Engine.afterPay
  simp only [plen_of_cur_two hpay.1]
  split_ifs
  · exact hph
  · rfl

/-- 41_framer R163, the rows of TX_CSUM. -/
theorem enterRx_ph_of_txCsum (h : e.Runs i) (hph : e.ph = .txCsum) : e.enterRx.ph = e.tableNext := by
  have hck : e.checksummed = true ∧ e.idx = 0 := by simpa [Engine.phaseOk, hph] using h.phase
  rw [enterRx_ph, rxPhase_of_command h.command, tableNext_txCsum hph, cur_of_command h.command]
  cases i with
  | vv => exact absurd hck.1 (by simp [checksummed_eq h.command, Instr.checksummed])
  | ns | zw | zr | br | brr | bs | be | bes | ber => rfl

/-- 41_framer R163, the rows of RX_RAW. -/
theorem afterRaw_ph (b : Byte) (hph : e.ph = .rxRaw) : (e.afterRaw b).ph = e.tableNext := by
  rw [tableNext_rxRaw hph]
  unfold Engine.afterRaw
  split_ifs
  · exact hph
  · omega
  · omega
  · rfl

/-- 41_framer R163, the rows of RX_PAY. -/
theorem afterPayload_ph (b : Byte) (h : e.Runs i) (hph : e.ph = .rxPay) :
    (e.afterPayload b).ph = e.tableNext := by
  have hpay : (e.cur = 1 ∨ e.cur = 3) ∧ e.idx.toNat < e.rlen := by simpa [Engine.phaseOk, hph] using h.phase
  obtain ⟨_, hlt, he⟩ := afterPayload_eq b h hph
  rw [he, moveTo_ph, tableNext_rxPay hph]
  simp only [← rlen_of_cur hpay.1, rlen_eq h.command]
  split_ifs
  · omega
  · rfl
  · rfl
  · omega

end

/-! ### The flags of a row -/

/-- PH and the flags of `e'` are those of the row of the transition table for `e` and a byte `b` that arrives
(41_framer R163). -/
structure Engine.FollowsRow (e : Engine) (b : Byte) (e' : Engine) : Prop where
  ph : e'.ph = e.tableNext
  err : e'.status.err = e.tableError b
  fault : e'.status.fault = decide (e.tableError b ≠ .none)
  done : e'.status.done = decide (e.tableNext = .idle)
  busy : e'.status.busy = decide (e.tableNext ≠ .idle)
  csm : e'.status.csm = (e.status.csm || decide (e.ph = .rxCsum ∧ b ≠ e.rxsum))

section
variable {e e' : Engine} {b : Byte}

theorem tableError_of_unchecked (hack : e.ph ≠ .rxAck) (hcsum : e.ph ≠ .rxCsum) : e.tableError b = .none := by
  unfold Engine.tableError
  split <;> simp_all

/-- A phase other than RX_CSUM leaves CSM as it was. -/
theorem csm_kept (hcsum : e.ph ≠ .rxCsum) :
    e.status.csm = (e.status.csm || decide (e.ph = .rxCsum ∧ b ≠ e.rxsum)) := by
  rw [decide_eq_false (fun hc => hcsum hc.1), Bool.or_false]

/-- A row after which the operation goes on: the flags stand. -/
theorem Engine.FollowsRow.goes_on (h : e.Ok) (hph : e.ph ≠ .idle) (hack : e.ph ≠ .rxAck) (hcsum : e.ph ≠ .rxCsum)
    (hnext : e'.ph = e.tableNext) (hph' : e'.ph ≠ .idle) (hstatus : e'.status = e.status) : e.FollowsRow b e' := by
  have herr := tableError_of_unchecked (b := b) hack hcsum
  have hbusy := h.busy.2 hph
  have hgoes : e.tableNext ≠ .idle := hnext ▸ hph'
  constructor
  case ph => exact hnext
  case err => rw [hstatus, herr, h.noErr hph]
  case fault => rw [hstatus, herr, h.noFault hph]; rfl
  case done => rw [hstatus, h.notDone hph, decide_eq_false hgoes]
  case busy => rw [hstatus, hbusy, decide_eq_true hgoes]
  case csm => rw [hstatus]; exact csm_kept hcsum

/-- A row that completes the operation (41_framer R162); CSM is `m`. -/
theorem Engine.FollowsRow.completes {m : Bool} (h : e.Ok) (hph : e.ph ≠ .idle) (hnext : e.tableNext = .idle)
    (herr : e.tableError b = .none) (hph' : e'.ph = .idle)
    (hstatus : e'.status = { e.status with csm := m }.completed)
    (hm : m = (e.status.csm || decide (e.ph = .rxCsum ∧ b ≠ e.rxsum))) : e.FollowsRow b e' := by
  constructor
  case ph => rw [hph', hnext]
  case err => rw [hstatus, herr]; exact h.noErr hph
  case fault => rw [hstatus, herr]; exact h.noFault hph
  case done => rw [hstatus, hnext]; rfl
  case busy => rw [hstatus, hnext]; rfl
  case csm => rw [hstatus]; exact hm

/-- A row that ends the operation with the error `k` (60_exceptions R290); CSM is `m`. -/
theorem Engine.FollowsRow.raises {m : Bool} {k : ErrKind} (hk : k ≠ .none) (hnext : e.tableNext = .idle)
    (herr : e.tableError b = k) (hph' : e'.ph = .idle) (hstatus : e'.status = { e.status with csm := m }.raised k)
    (hm : m = (e.status.csm || decide (e.ph = .rxCsum ∧ b ≠ e.rxsum))) : e.FollowsRow b e' := by
  constructor
  case ph => rw [hph', hnext]
  case err => rw [hstatus, herr]; rfl
  case fault => rw [hstatus, herr, decide_eq_true hk]; rfl
  case done => rw [hstatus, hnext]; rfl
  case busy => rw [hstatus, hnext]; rfl
  case csm => rw [hstatus]; exact hm

/-! ### The rows -/

/-- 41_framer R163: a byte of the request moves PH as its row says. -/
theorem afterTx_ph {i : Instr} (b : Byte) (h : e.Runs i) (hg : e.ph.group = .transmit) :
    (e.afterTx b).ph = e.tableNext := by
  rcases transmit_cases hg with hph | hph | hph <;> rw [Engine.afterTx, hph]
  · exact afterHdr_ph b h hph
  · exact afterPay_ph b h hph
  · exact enterRx_ph_of_txCsum h hph

/-- 41_framer R163, the byte rows of the transmit phases, whatever waits in `d2h`. -/
theorem afterTx_followsRow (a b : Byte) (h : e.Ok) (hg : e.ph.group = .transmit) :
    e.FollowsRow b (e.afterTx a) := by
  have hph := ne_idle_of_transmit hg
  obtain ⟨i, hrun⟩ := h.runs hph
  obtain ⟨hph', hstatus⟩ : (e.afterTx a).ph ≠ .idle ∧ (e.afterTx a).status = e.status := by
    rcases afterTx_cases a hg with ⟨p, j, hp, heq⟩ | ⟨ts, heq⟩ <;> rw [heq]
    · exact ⟨ne_idle_of_transmit hp, rfl⟩
    · exact ⟨ne_idle_of_receive (enterRx_group (e := { e with txsum := ts }) hrun.command), rfl⟩
  exact .goes_on h hph (fun hp => by simp [hp, Phase.group] at hg) (fun hp => by simp [hp, Phase.group] at hg)
    (afterTx_ph a hrun hg) hph' hstatus

/-- 41_framer R163, the rows of RX_ACK. -/
theorem afterAck_followsRow (b : Byte) (h : e.Ok) (hph : e.ph = .rxAck) : e.FollowsRow b (e.afterAck b) := by
  have hne : e.ph ≠ .idle := by rw [hph]; decide
  have hnext := tableNext_last (.inl hph)
  have hkept := csm_kept (e := e) (b := b) (by rw [hph]; decide)
  unfold Engine.afterAck
  split_ifs with hk
  · exact .completes h hne hnext (by rw [Engine.tableError, hph]; exact if_pos hk) rfl rfl hkept
  · exact .raises (by decide) hnext (by rw [Engine.tableError, hph]; exact if_neg hk) rfl rfl hkept

/-- 41_framer R163, the row of RX_BYTE. -/
theorem afterByte_followsRow (b : Byte) (h : e.Ok) (hph : e.ph = .rxByte) : e.FollowsRow b (e.afterByte b) :=
  .completes h (by rw [hph]; decide) (tableNext_last (.inr (.inl hph)))
    (tableError_of_unchecked (by rw [hph]; decide) (by rw [hph]; decide)) rfl rfl (csm_kept (by rw [hph]; decide))

/-- 41_framer R163, the rows of RX_RAW. -/
theorem afterRaw_followsRow (b : Byte) (h : e.Ok) (hph : e.ph = .rxRaw) : e.FollowsRow b (e.afterRaw b) := by
  have hne : e.ph ≠ .idle := by rw [hph]; decide
  have hack : e.ph ≠ .rxAck := by rw [hph]; decide
  have hcsum : e.ph ≠ .rxCsum := by rw [hph]; decide
  have hnext := afterRaw_ph b hph
  unfold Engine.afterRaw at hnext ⊢
  split_ifs at hnext ⊢
  · exact .goes_on h hne hack hcsum hnext hne rfl
  · exact .completes h hne hnext.symm (tableError_of_unchecked hack hcsum) rfl rfl (csm_kept hcsum)

/-- 41_framer R163, the rows of RX_PAY. -/
theorem afterPayload_followsRow {i : Instr} (b : Byte) (h : e.Ok) (hrun : e.Runs i) (hph : e.ph = .rxPay) :
    e.FollowsRow b (e.afterPayload b) := by
  obtain ⟨_, _, heq⟩ := afterPayload_eq b hrun hph
  have hph' : (e.afterPayload b).ph ≠ .idle := by
    rw [heq, moveTo_ph]
    split_ifs <;> decide
  have hstatus : (e.afterPayload b).status = e.status := by
    rw [heq]
    exact (storePay_same e b).2.1
  exact .goes_on h (by rw [hph]; decide) (by rw [hph]; decide) (by rw [hph]; decide) (afterPayload_ph b hrun hph) hph'
    hstatus

/-- 41_framer R163, the rows of RX_CSUM. -/
theorem afterCsum_followsRow (b : Byte) (h : e.Ok) (hph : e.ph = .rxCsum) : e.FollowsRow b (e.afterCsum b) := by
  have hne : e.ph ≠ .idle := by rw [hph]; decide
  have hnext := tableNext_last (.inr (.inr hph))
  have herr : e.tableError b = if b ≠ e.rxsum ∧ e.csumEnforce = true then .csum else .none := by
    rw [Engine.tableError, hph]
  have hset (hc : b ≠ e.rxsum) : true = (e.status.csm || decide (e.ph = .rxCsum ∧ b ≠ e.rxsum)) := by
    rw [decide_eq_true ⟨hph, hc⟩, Bool.or_true]
  unfold Engine.afterCsum
  split_ifs with hc henforce
  · exact .completes (m := e.status.csm) h hne hnext (herr.trans (if_neg fun hm => hm.1 hc)) rfl rfl
      (by rw [decide_eq_false (fun hm => hm.2 hc), Bool.or_false])
  · exact .raises (m := true) (by decide) hnext (herr.trans (if_pos ⟨hc, henforce⟩)) rfl rfl (hset hc)
  · exact .completes (m := true) h hne hnext (herr.trans (if_neg fun hm => henforce hm.2)) rfl rfl (hset hc)

/-- 41_framer R163, the byte rows of the receive phases. -/
theorem afterRx_followsRow (b : Byte) (h : e.Ok) (hg : e.ph.group = .receive) : e.FollowsRow b (e.afterRx b) := by
  obtain ⟨i, hrun⟩ := h.runs (ne_idle_of_receive hg)
  unfold Engine.afterRx
  split
  case h_1 hph => exact afterAck_followsRow b h hph
  case h_2 hph => exact afterByte_followsRow b h hph
  case h_3 hph => exact afterRaw_followsRow b h hph
  case h_4 hph => exact afterPayload_followsRow b h hrun hph
  case h_5 hph => exact afterCsum_followsRow b h hph
  case h_6 hack hbyte hraw hpay hcsum => cases hph : e.ph <;> simp_all [Phase.group]

end

/-- Settles O37: a byte sent and a byte taken, each along its row. -/
theorem byteStepsFollowTheTransitionTable : Obligations.ByteStepsFollowTheTransitionTable := by
  intro s t hs hb h
  obtain ⟨hph, herr, hfault, hdone, hbusy, hcsm⟩ : s.eng.FollowsRow (s.d2h.headD 0) t.eng := by
    rcases byteStep_cases h with ⟨hno, _⟩ | ⟨b, hg, _, rfl⟩ | ⟨b, rest, hg, hd, rfl⟩
    · rw [hb] at hno
      cases hno
    · exact afterTx_followsRow b _ hs.eng hg
    · rw [hd]
      exact afterRx_followsRow b hs.eng hg
  exact ⟨hph, herr, hfault, hdone, hbusy, hcsm⟩

end Sys2Proof.Machine
end

section
/-! PROOFS. What each writing command does in the reference responder (44_bank R207; 46_device R257, R259, R263, R266). -/

namespace Sys2Proof.Machine

/-- 46_device R262: a transfer's bank, when `IOBANK_MODE` is asked whether it adds the I/O bank. -/
theorem transferBank_eq_ite (d : Device) (bh : Bank) :
    d.transferBank bh = if Config.ioBankMode = .added then bh + d.iobank else bh := by
  unfold Device.transferBank
  cases Config.ioBankMode with
  | ignored => rfl
  | added => rfl

/-- Settles O49: the responder rejects the frame, or carries it out, command by command. -/
theorem writingCommandsChangeTheirOwnState : Obligations.WritingCommandsChangeTheirOwnState := by
  intro d i payload hi
  by_cases hrej : Config.reject (d.frames + 1) = true
  · rw [if_pos hrej]
    exact ⟨Config.nakByte, nakByte_ne_ackByte, respond_rejected payload hrej hi⟩
  · rw [if_neg hrej, respond_applied payload (.inl (Bool.eq_false_of_not_eq_true hrej))]
    cases i with
    | br | bs | be => rfl
    | zw n bh ah => rw [apply_zw, Device.withPages, Device.transferSpan, transferBank_eq_ite]
    | vv | ns | zr | brr | bes | ber => cases hi

end Sys2Proof.Machine
end

section
/-! PROOFS. The arithmetic of the windower: the transfers of a `read_range` and the slices of a `write_range` are whole
pages, and their pieces put together are the range and the data (45_windower R226 to R238). -/

namespace Sys2Proof.Machine

/-! ### How often the loops run, and where their pieces meet -/

/-- 45_windower R228 (a), R238 (a): a loop in steps of `d` over `n` bytes runs for every step that starts below `n`. -/
theorem lt_stepCount_iff {n d j : Nat} (hd : 0 < d) : j < (n + d - 1) / d ↔ j * d < n := by
  rw [Nat.lt_iff_add_one_le, Nat.le_div_iff_mul_le hd, Nat.succ_mul]
  omega

theorem span_append (lo m n : Nat) : span lo m ++ span (lo + m) n = span lo (m + n) :=
  List.range'_append_1

/-- Pieces that each begin where the one before ends are together one span. -/
theorem flatMap_span_of_monotone {c : Nat → Nat} (hc : Monotone c) (n : Nat) :
    (List.range n).flatMap (fun j => span (c j) (c (j + 1) - c j)) = span (c 0) (c n - c 0) := by
  induction n with
  | zero => simp [span]
  | succ n ih =>
    have h0 : c 0 ≤ c n := hc (Nat.zero_le n)
    have h1 : c n ≤ c (n + 1) := hc (Nat.le_succ n)
    have happend := span_append (c 0) (c n - c 0) (c (n + 1) - c n)
    rw [show c 0 + (c n - c 0) = c n by omega, show c n - c 0 + (c (n + 1) - c n) = c (n + 1) - c 0 by omega] at happend
    rw [List.range_succ, List.flatMap_append, ih, List.flatMap_singleton, happend]

/-- Where step `j` of a loop from `base` begins, kept within `lo` and `hi`. -/
def cut (lo hi base d j : Nat) : Nat := min (max (base + j * d) lo) hi

theorem cut_monotone (lo hi base d : Nat) : Monotone (cut lo hi base d) := by
  intro i j hij
  have hmul : i * d ≤ j * d := Nat.mul_le_mul_right d hij
  simp only [cut]
  omega

/-- 45_windower R228 (d), R238 (c): the steps of a loop that begins at or before `lo` and ends at or after `hi` cover
what lies between. -/
theorem flatMap_span_cut {lo hi base d n : Nat} (hbase : base ≤ lo) (hlo : lo ≤ hi) (hn : hi ≤ base + n * d) :
    (List.range n).flatMap (fun j => span (cut lo hi base d j) (cut lo hi base d (j + 1) - cut lo hi base d j))
      = span lo (hi - lo) := by
  rw [flatMap_span_of_monotone (cut_monotone lo hi base d), show cut lo hi base d 0 = lo by simp only [cut]; omega,
    show cut lo hi base d n = hi by simp only [cut]; omega]

/-! ### The transfers of a `read_range` -/

theorem pageFloor_dvd (a : Nat) : 256 ∣ pageFloor a := Nat.dvd_sub_mod a

theorem pageFloor_le (a : Nat) : pageFloor a ≤ a := Nat.sub_le _ _

theorem lt_pageFloor_add (a : Nat) : a < pageFloor a + 256 := by
  simp only [pageFloor]
  omega

/-- 45_windower R229: no block of a `read_range` begins a whole page before `start`. -/
theorem leadPages_eq_zero {start a : Nat} (h : pageFloor start ≤ a) : leadPages start a = 0 := by
  have hstart := lt_pageFloor_add start
  unfold leadPages
  split_ifs
  · exact Nat.div_eq_of_lt (by omega)
  · rfl

theorem excess_eq (stop block a : Nat) : excess stop block a = a + block - (stop + 1) := by
  unfold excess
  split_ifs <;> omega

/-- 45_windower R226, R229: the transfer for a block, without the lead pages, of which there are none. -/
theorem readBlockAt_eq {start a : Nat} (stop block : Nat) (h : pageFloor start ≤ a) :
    readBlockAt start stop block a =
      { addr := a, size := block - 256 * ((a + block - (stop + 1)) / 256), leadTrim := start - a
        tailTrim := (a + block - (stop + 1)) % 256 } := by
  have hlead : (if a < start then (start - a) % 256 else 0) = start - a := by
    have hstart := lt_pageFloor_add start
    split_ifs
    · exact Nat.mod_eq_of_lt (by omega)
    · omega
  rw [readBlockAt, leadPages_eq_zero h, excess_eq, hlead]
  rfl

/-- Settles O54: every block begins at or after the page of `start`. -/
theorem leadPagesAreAlwaysZero : Obligations.LeadPagesAreAlwaysZero := by
  intro start stop block j _ _ _ _
  have hfirst : pageFloor start ≤ pageFloor start + j * block := Nat.le_add_right _ _
  exact ⟨leadPages_eq_zero hfirst, by rw [readBlockAt_eq stop block hfirst]⟩

/-- `a` is the address of a block that the loop of `read_range` reaches (45_windower R226, R228 (b)). -/
structure BlockOf (start stop block a : Nat) : Prop where
  wholePages : 256 ∣ block
  onePage : 256 ≤ block
  ordered : start ≤ stop
  aligned : 256 ∣ a
  first : pageFloor start ≤ a
  last : a ≤ stop

/-- 45_windower R228 (a): the loop runs while the block begins below `aligned_end_exclusive`. -/
theorem lt_blockCount_iff {start stop block j : Nat} (hblock : 0 < block) :
    j < blockCount start stop block ↔ pageFloor start + j * block < alignedEnd stop := by
  rw [blockCount, lt_stepCount_iff hblock]
  omega

/-- 45_windower R228 (b): every iteration of the loop reaches a block that holds a byte of the range. -/
theorem blockOf_of_lt {start stop block j : Nat} (hdvd : 256 ∣ block) (hblock : 256 ≤ block) (hle : start ≤ stop)
    (hj : j < blockCount start stop block) : BlockOf start stop block (pageFloor start + j * block) := by
  have haligned : 256 ∣ pageFloor start + j * block := Nat.dvd_add (pageFloor_dvd start) (Dvd.dvd.mul_left hdvd j)
  have hbelow : pageFloor start + j * block < pageFloor stop + 256 := (lt_blockCount_iff (by omega)).1 hj
  refine ⟨hdvd, hblock, hle, haligned, Nat.le_add_right _ _, ?_⟩
  have hpage := pageFloor_dvd stop
  have hstop := pageFloor_le stop
  omega

section
variable {start stop block a : Nat}

/-- 45_windower R228 (b), (c): a transfer is whole pages, at least one and at most a block, at a page address, and what
is trimmed is less than a page at each end and less than the transfer. -/
theorem BlockOf.transfer (h : BlockOf start stop block a) :
    256 ∣ (readBlockAt start stop block a).size ∧ 256 ≤ (readBlockAt start stop block a).size ∧
      (readBlockAt start stop block a).size ≤ block ∧ 256 ∣ (readBlockAt start stop block a).addr ∧
      (readBlockAt start stop block a).leadTrim < 256 ∧ (readBlockAt start stop block a).tailTrim < 256 ∧
      (readBlockAt start stop block a).leadTrim + (readBlockAt start stop block a).tailTrim
        < (readBlockAt start stop block a).size := by
  obtain ⟨hdvd, hblock, hle, haligned, hfirst, hlast⟩ := h
  have hstart := lt_pageFloor_add start
  rw [readBlockAt_eq stop block hfirst]
  dsimp only
  exact ⟨Nat.dvd_sub hdvd (Nat.dvd_mul_right _ _), by omega, Nat.sub_le _ _, haligned, by omega,
    Nat.mod_lt _ (by decide), by omega⟩

/-- 45_windower R228 (d): what is left of a transfer after trimming is as long as block and range have in common. -/
theorem trimmedLength_eq (stop block : Nat) (h : pageFloor start ≤ a) :
    (readBlockAt start stop block a).size - (readBlockAt start stop block a).tailTrim
        - (readBlockAt start stop block a).leadTrim
      = min (a + block) (stop + 1) - max a start := by
  rw [readBlockAt_eq stop block h]
  dsimp only
  omega

/-- 45_windower R228 (e): the trimmed piece of a block, as the part of the range between two cuts. -/
theorem trimmedSpan_eq_cut {j : Nat} (h : BlockOf start stop block (pageFloor start + j * block)) :
    (fun b : ReadBlock => span (b.addr + b.leadTrim) (b.size - b.tailTrim - b.leadTrim))
        (readBlockAt start stop block (pageFloor start + j * block))
      = span (cut start (stop + 1) (pageFloor start) block j)
          (cut start (stop + 1) (pageFloor start) block (j + 1) - cut start (stop + 1) (pageFloor start) block j) := by
  obtain ⟨_, hblock, hle, _, hfirst, hlast⟩ := h
  have hstart := lt_pageFloor_add start
  simp only [trimmedLength_eq stop block hfirst]
  rw [readBlockAt_eq stop block hfirst]
  simp only [cut, Nat.succ_mul]
  congr 1 <;> omega

end

/-- Settles O55: each transfer by its block, and the pieces by the cuts in which they meet. -/
theorem readPlanCoversTheRange : Obligations.ReadPlanCoversTheRange := by
  intro start stop block hdvd hblock hle
  have hreached (j : Nat) (hj : j ∈ List.range (blockCount start stop block)) :
      BlockOf start stop block (pageFloor start + j * block) :=
    blockOf_of_lt hdvd hblock hle (List.mem_range.1 hj)
  constructor
  · intro b hb
    obtain ⟨j, hj, rfl⟩ := List.mem_map.1 hb
    exact (hreached j hj).transfer
  · have hend : alignedEnd stop ≤ pageFloor start + blockCount start stop block * block :=
      Nat.le_of_not_lt fun h => Nat.lt_irrefl _ ((lt_blockCount_iff (by omega)).2 h)
    have hstop : stop < alignedEnd stop := lt_pageFloor_add stop
    rw [readPlan, List.flatMap_map, List.flatMap_congr fun j hj => trimmedSpan_eq_cut (hreached j hj)]
    exact flatMap_span_cut (pageFloor_le start) (by omega) (by omega)

/-! ### The slices of a `write_range` -/

/-- 45_windower R238 (a), (d): slice `j` exists while its offset is within the data, and stands in address order. -/
theorem writePlan_getElem?_eq_some {len start block j addr m : Nat} (hblock : 0 < block)
    (h : (writePlan len start block)[j]? = some (addr, m)) :
    j * block < len ∧ addr = start + j * block ∧ m = sliceLen len block (j * block) := by
  obtain ⟨hj, hslice⟩ := List.getElem?_eq_some_iff.1 h
  rw [writePlan, List.length_map, List.length_range, lt_stepCount_iff hblock] at hj
  simp only [writePlan, List.getElem_map, List.getElem_range, Prod.mk.injEq] at hslice
  exact ⟨hj, hslice.1.symm, hslice.2.symm⟩

/-- 45_windower R238 (b): a slice is whole pages, at least one and at most a block. -/
theorem sliceLen_pages {len block off : Nat} (hdvd : 256 ∣ block) (hblock : 256 ≤ block) (hlen : 256 ∣ len)
    (hoff : 256 ∣ off) (hlt : off < len) :
    256 ∣ sliceLen len block off ∧ 256 ≤ sliceLen len block off ∧ sliceLen len block off ≤ block := by
  unfold sliceLen
  omega

theorem sliceSpan_eq_cut {len start block j : Nat} (hj : j * block < len) :
    span (start + j * block) (sliceLen len block (j * block))
      = span (cut start (start + len) start block j)
          (cut start (start + len) start block (j + 1) - cut start (start + len) start block j) := by
  simp only [cut, sliceLen, Nat.succ_mul]
  congr 1 <;> omega

/-- 45_windower R238 (b) to (d): the slices are whole pages and together the data. -/
theorem writePlan_covers {len block : Nat} (start : Nat) (hdvd : 256 ∣ block) (hblock : 256 ≤ block)
    (hlen : 256 ∣ len) :
    (∀ c ∈ writePlan len start block, 256 ∣ c.2 ∧ 256 ≤ c.2 ∧ c.2 ≤ block) ∧
      (writePlan len start block).flatMap (fun c => span c.1 c.2) = span start len := by
  have hcount (j : Nat) : j < (len + block - 1) / block ↔ j * block < len := lt_stepCount_iff (by omega)
  constructor
  · intro c hc
    obtain ⟨j, hj, rfl⟩ := List.mem_map.1 hc
    exact sliceLen_pages hdvd hblock hlen (Dvd.dvd.mul_left hdvd j) ((hcount j).1 (List.mem_range.1 hj))
  · have hend : len ≤ (len + block - 1) / block * block :=
      Nat.le_of_not_lt fun h => Nat.lt_irrefl _ ((hcount _).2 h)
    rw [writePlan, List.flatMap_map,
      List.flatMap_congr fun j hj => sliceSpan_eq_cut (start := start) ((hcount j).1 (List.mem_range.1 hj)),
      flatMap_span_cut (Nat.le_refl start) (Nat.le_add_right _ _) (Nat.add_le_add_left hend start),
      Nat.add_sub_cancel_left]

end Sys2Proof.Machine
end

section
/-! PROOFS. The elements of a firmware call: one that fails, one of a `write_range` that is acknowledged, and one of a
`read_range` against the reference responder (45_windower R223 to R239). -/

namespace Sys2Proof.Machine

/-! ### Commands and what has been yielded -/

/-- No agent but the host yields an element: the reset input, too, leaves the yielded ones (log 20). -/
theorem pollStep_fwOut {s t : State} (h : pollStep s = .next t) : t.fwOut = s.fwOut := by
  rcases pollStep_cases h with ⟨e, rest, _, henv⟩ | ⟨_, hauto⟩
  · by_cases hreset : e = .reset
    · subst hreset
      cases henv
      exact resetBlock_fwOut _
    · exact (envStep_movesTo hreset henv).host.fwOut
  · exact (autoStep_movesTo hauto).host.fwOut

theorem awaitIdle_fwOut {s t : State} (h : awaitIdle s = .next t) : t.fwOut = s.fwOut :=
  poll_relates (R := fun s t => t.fwOut = s.fwOut) (fun _ => rfl)
    (fun _ _ _ hst _ hstep => (pollStep_fwOut hstep).trans hst) _ h

/-- A command line yields no element, whatever is planned and whether or not it is dropped. -/
theorem exec_fwOut {i : Instr} {s t : State} (h : exec i s = .next t) : t.fwOut = s.fwOut := by
  cases hb : s.eng.status.busy with
  | false =>
    rw [exec_free i hb] at h
    exact (awaitIdle_fwOut h).trans (putEng_fwOut ..)
  | true =>
    rw [exec_busy i hb] at h
    exact (awaitIdle_fwOut h).trans (overrun_fwOut s)

theorem fillTxbuf_fwOut (k : Nat) (bs : List Byte) (s : State) : (fillTxbuf k bs s).fwOut = s.fwOut := by
  obtain ⟨m, o, hfill⟩ := fillTxbuf_frame bs k s
  rw [hfill, putEng_fwOut]

/-! ### How an element ends -/

/-- Without a call in progress nothing happens (45_windower R223; log 20). -/
theorem nextElement_of_none {s : State} (h : s.fw = .none) : nextElement s = .next s := by
  rw [nextElement, h]

theorem nextElement_of_reading {s : State} {start stop block a : Nat} (h : s.fw = .reading start stop block a) :
    nextElement s = nextRead start stop block a s := by
  rw [nextElement, h]

theorem nextElement_of_writing {s : State} {data : List Byte} {start block off : Nat}
    (h : s.fw = .writing data start block off) : nextElement s = nextWrite data start block off s := by
  rw [nextElement, h]

theorem err_of_commandOk {s s' : State} (h : commandOk s s' = true) :
    s.eng.status.busy = false ∧ s'.eng.status.err = .none := by
  obtain ⟨hbusy, _, herr⟩ := (commandOk_iff s s').1 h
  exact ⟨hbusy, herr⟩

/-- 45_windower R223, R225: asked for an element, a call in progress ends without one, or its command was issued with no
operation in flight and completed. -/
theorem nextElement_fails_or_completes {s t : State} (hfw : s.fw ≠ .none) (h : nextElement s = .next t) :
    (∃ s', s'.fwOut = s.fwOut ∧ t = fwFail s') ∨ (s.eng.status.busy = false ∧ t.eng.status.err = .none) := by
  unfold nextElement at h
  split at h
  case h_1 hnone => exact absurd hnone hfw
  case h_2 =>
    obtain ⟨s', hexec, ⟨_, rfl⟩ | ⟨hok, bytes, _, rfl⟩⟩ := nextRead_cases h
    · exact .inl ⟨s', exec_fwOut hexec, rfl⟩
    · exact .inr (err_of_commandOk hok)
  case h_3 =>
    obtain ⟨s', hexec, ⟨_, rfl⟩ | ⟨hok, rfl⟩⟩ := nextWrite_cases h
    · exact .inl ⟨s', (exec_fwOut hexec).trans (fillTxbuf_fwOut ..), rfl⟩
    · exact .inr (err_of_commandOk hok)

theorem fwFail_fwEnd {s : State} (h : s.eng.status.err ≠ .none) : (fwFail s).fwEnd = .failed s.eng.status.err :=
  if_neg h

/-- Settles O60: an error or a dropped command leaves only the end without an element, and then there is no call. -/
theorem failedWriteEndsTheCall : Obligations.FailedWriteEndsTheCall := by
  intro s t hfw h
  rcases nextElement_fails_or_completes hfw h with ⟨s', hout, rfl⟩ | ⟨hfree, hnone⟩
  · have hstays : nextElement (fwFail s') = .next (fwFail s') := nextElement_of_none rfl
    exact ⟨fun herr => ⟨rfl, hout, fwFail_fwEnd herr, hstays⟩, fun _ => ⟨rfl, hout, hstays⟩⟩
  · exact ⟨fun herr => absurd hnone herr, fun hbusy => absurd (hfree.symm.trans hbusy) (by decide)⟩

/-- 45_windower R226, R237: an element is yielded and the loop's test `q` says whether the call goes on. -/
theorem fwYield_ite {q : Prop} [Decidable q] (e : FwElem) {call : FwCall} (hcall : call ≠ .none) (s : State) :
    fwYield e (if q then call else .none) s = { s with
      fw := if q then call else .none, fwOut := s.fwOut ++ [e], fwEnd := if q then .running else .finished } := by
  by_cases hq : q
  · simp only [fwYield, if_pos hq, if_neg hcall]
  · simp only [fwYield, if_neg hq, if_true]

/-! ### The page count of a transfer -/

/-- 30_encoding R93, 45_windower R221: as many pages as a buffer holds fit the page count. -/
theorem pageCount_mul {m : Nat} (hdvd : 256 ∣ m) (hle : m ≤ 256 * Config.maxPages) :
    256 * (BitVec.ofNat 8 (m / 256)).toNat = m := by
  have hmax := maxPages_le
  rw [BitVec.toNat_ofNat]
  omega

theorem pageCount_legal {m : Nat} (hdvd : 256 ∣ m) (hpos : 256 ≤ m) (hle : m ≤ 256 * Config.maxPages) :
    legalPages (BitVec.ofNat 8 (m / 256)) = true := by
  have hmul := pageCount_mul hdvd hle
  rw [legalPages_iff]
  omega

/-! ### An element of a `write_range` -/

/-- 45_windower R222: the fields of a slice's command, by division. -/
theorem sliceCommand_eq (addr m : Nat) :
    sliceCommand addr m
      = .zw (BitVec.ofNat 8 (m / 256)) (BitVec.ofNat 3 (addr / 65536)) (BitVec.ofNat 8 (addr / 256)) := by
  rw [sliceCommand, bankHighOf, addrHighOf, Nat.shiftRight_eq_div_pow, Nat.shiftRight_eq_div_pow]

/-- 45_windower R237: a slice whose command completes is yielded. -/
theorem nextWrite_of_exec {data : List Byte} {start block off : Nat} {s u : State}
    (hexec : exec (sliceCommand (start + off) (sliceLen data.length block off))
      (fillTxbuf 0 ((data.drop off).take (sliceLen data.length block off)) s) = .next u)
    (hok : commandOk (fillTxbuf 0 ((data.drop off).take (sliceLen data.length block off)) s) u = true) :
    nextWrite data start block off s = .next (fwYield (.count (sliceLen data.length block off))
      (if off + block < data.length then .writing data start block (off + block) else .none) u) := by
  rw [sliceCommand, exec] at hexec
  simp only [nextWrite, hexec, hok, if_true]

/-- The machine with the slice of a `write_range` in TXBUF from index 0 on (45_windower R237). -/
def withSlice (s : State) (slice : List Byte) : State :=
  s.putEng { s.eng with txbuf := s.eng.txbuf.writeAt ((span 0 slice.length).zip slice) }

theorem withSlice_hasPayload (s : State) {slice : List Byte} {i : Instr} (h : i.payloadLen = slice.length) :
    HasPayload i slice (withSlice s slice) := by
  rw [HasPayload, h]
  exact readAt_writeAt slice 0 s.eng.txbuf

theorem Ready.notBusy {s : State} (h : Ready s) : s.eng.status.busy = false := by
  obtain ⟨_, _, hbusy, _⟩ := h
  exact hbusy

theorem slice_length {data slice : List Byte} {block off m : Nat} (hm : m = sliceLen data.length block off)
    (hslice : slice = (data.drop off).take m) : slice.length = m := by
  rw [hslice, List.length_take, List.length_drop, hm, sliceLen]
  omega

/-- The next element of a `write_range` at rest, its slice of whole pages acknowledged (45_windower R237). -/
theorem nextWrite_acknowledged {data slice rest : List Byte} {start block off m : Nat} {s : State} (hr : Ready s)
    (hq : Quiet s) (hd : s.d2h = Config.ackByte :: rest) (hm : m = sliceLen data.length block off)
    (hslice : slice = (data.drop off).take m) (hdvd : 256 ∣ m) (hpos : 256 ≤ m) (hle : m ≤ 256 * Config.maxPages) :
    nextWrite data start block off s = .next (fwYield (.count m)
      (if off + block < data.length then .writing data start block (off + block) else .none)
      { s with
        eng := { (withSlice s slice).eng.sent (sliceCommand (start + off) m) slice with
          status := s.eng.status.after false }
        h2d := s.h2d ++ frameOf (sliceCommand (start + off) m) slice
        d2h := rest }) := by
  have hlen := slice_length hm hslice
  have hfill : fillTxbuf 0 slice s = withSlice s slice :=
    fillTxbuf_free slice 0 s hr.notBusy (by rw [hlen, Nat.zero_add, Config.bufBytes, Nat.mul_comm]; exact hle)
  have hexec := exec_ack (i := sliceCommand (start + off) m) (s := withSlice s slice) rfl hr hq
    (pageCount_legal hdvd hpos hle) (withSlice_hasPayload s ((pageCount_mul hdvd hle).trans hlen.symm)) hd
  subst hm
  rw [← hfill, hslice] at hexec
  rw [nextWrite_of_exec hexec ((commandOk_iff ..).2 ⟨?_, rfl, rfl⟩), ← hslice, hfill]
  · rfl
  · rw [← hslice, hfill]
    exact hr.notBusy

/-- Settles O56: the slices' arithmetic, and the element of a slice by the acknowledged `ZW` of its bytes. -/
theorem writePlanCoversTheData : Obligations.WritePlanCoversTheData := by
  refine ⟨fun len start block hdvd hblock hlen => writePlan_covers start hdvd hblock hlen, ?_⟩
  intro s data slice rest start block j addr m hr hq hd hdvd hblock hmax hlen _ _ hfw hplan hslice
  obtain ⟨hoff, rfl, hm⟩ := writePlan_getElem?_eq_some (by omega) hplan
  obtain ⟨hmdvd, hmpos, hmle⟩ := sliceLen_pages hdvd hblock hlen (Dvd.dvd.mul_left hdvd j) hoff
  rw [← hm] at hmdvd hmpos hmle
  rw [nextElement_of_writing hfw, nextWrite_acknowledged hr hq hd hm hslice hmdvd hmpos (hmle.trans hmax),
    sliceCommand_eq, withSlice, slice_length hm hslice, Nat.succ_mul, fwYield_ite _ FwCall.noConfusion]
  rfl

/-! ### An element of a `read_range` -/

/-- Part of a run of bytes reads as that part of what the run reads. -/
theorem readAt_span_drop_take {mem : Memory} {n k m : Nat} {p : List Byte} (h : mem.readAt (span 0 n) = some p)
    (hkm : k + m ≤ n) : mem.readAt (span k m) = some ((p.drop k).take m) := by
  obtain ⟨r, rfl⟩ := Nat.exists_eq_add_of_le hkm
  rw [← span_append, ← span_append, readAt_append, readAt_append, Nat.zero_add] at h
  obtain ⟨xy, hxy, h⟩ := Option.bind_eq_some_iff.1 h
  obtain ⟨z, hz, rfl⟩ := Option.map_eq_some_iff.1 h
  obtain ⟨x, hx, hxy⟩ := Option.bind_eq_some_iff.1 hxy
  obtain ⟨y, hy, rfl⟩ := Option.map_eq_some_iff.1 hxy
  have hxl : x.length = k := by rw [readAt_length hx, span, List.length_range']
  have hyl : y.length = m := by rw [readAt_length hy, span, List.length_range']
  rw [hy, List.append_assoc, ← hxl, List.drop_left, ← hyl, List.take_left]

/-- 46_device R260 to R262: where the I/O bank has no part in it, a transfer from a page reads on from that page. -/
theorem transferSpan_of_page {d : Device} {n : Byte} {a : Nat} (hbank : Config.ioBankMode = .ignored ∨ d.iobank = 0)
    (hdvd : 256 ∣ a) (hlt : a < Config.memBytes) :
    d.transferSpan n (bankHighOf a) (addrHighOf a) = deviceSpan a (256 * n.toNat) := by
  have htransfer : d.transferBank (bankHighOf a) = bankHighOf a := by
    rw [transferBank_eq_ite]
    rcases hbank with hmode | hzero
    · rw [hmode, if_neg (by decide)]
    · rw [hzero, add_zero, ite_self]
  rw [Device.transferSpan, htransfer, pageAddressInvertsItsFields a hdvd hlt]

/-- 45_windower R226: the trimmed bytes of a transfer that completes are yielded. -/
theorem nextRead_of_exec {start stop block a : Nat} {s u : State} {bytes : List Byte}
    (hexec : exec (readBlockAt start stop block a).command s = .next u) (hok : commandOk s u = true)
    (hread : u.eng.rxbuf.readAt (span (readBlockAt start stop block a).leadTrim
      ((readBlockAt start stop block a).size - (readBlockAt start stop block a).tailTrim
        - (readBlockAt start stop block a).leadTrim)) = some bytes) :
    nextRead start stop block a s = .next (fwYield (.chunk bytes)
      (if a + block < alignedEnd stop then .reading start stop block (a + block) else .none) u) := by
  rw [ReadBlock.command, exec] at hexec
  simp only [nextRead, hexec, hok, hread, if_true]

/-- 45_windower R228 (e), 46_device R260: against the responder the element of a block is the device bytes that block
and range have in common. -/
theorem nextRead_reference {start stop block a : Nat} {s : State} {p : List Byte} (hs : BesideResponder s)
    (hbank : Config.ioBankMode = .ignored ∨ s.dev.iobank = 0) (hblk : BlockOf start stop block a)
    (hmax : block ≤ 256 * Config.maxPages) (hstop : stop < Config.memBytes)
    (hp : s.dev.mem.readAt (deviceSpan a (readBlockAt start stop block a).size) = some p) :
    ∃ u, u.fwOut = s.fwOut ∧ nextRead start stop block a s = .next (fwYield
      (.chunk ((p.drop (readBlockAt start stop block a).leadTrim).take (min (a + block) (stop + 1) - max a start)))
      (if a + block < alignedEnd stop then .reading start stop block (a + block) else .none) u) := by
  obtain ⟨hsdvd, hspos, hsle, _, _, _, htrim⟩ := hblk.transfer
  have hmul := pageCount_mul hsdvd (hsle.trans hmax)
  have hspan : s.dev.transferSpan (BitVec.ofNat 8 ((readBlockAt start stop block a).size / 256)) (bankHighOf a)
      (addrHighOf a) = deviceSpan a (readBlockAt start stop block a).size := by
    rw [transferSpan_of_page hbank hblk.aligned (hblk.last.trans_lt hstop), hmul]
  obtain ⟨u, hexec, hstatus, hrx⟩ :=
    exec_zr_reference hs (pageCount_legal hsdvd hspos (hsle.trans hmax)) (hspan ▸ hp)
  have haddr : (readBlockAt start stop block a).addr = a := by rw [readBlockAt_eq stop block hblk.first]
  have hcommand : exec (readBlockAt start stop block a).command s = .next u := by
    rw [ReadBlock.command, haddr]
    exact hexec
  have hok : commandOk s u = true := by
    rw [commandOk_iff, hstatus]
    exact ⟨hs.ready.notBusy, rfl, rfl⟩
  have hread := readAt_span_drop_take (k := (readBlockAt start stop block a).leadTrim)
    (m := (readBlockAt start stop block a).size - (readBlockAt start stop block a).tailTrim
      - (readBlockAt start stop block a).leadTrim) (hmul ▸ hrx) (by omega)
  rw [← trimmedLength_eq stop block hblk.first]
  exact ⟨u, exec_fwOut hcommand, nextRead_of_exec hcommand hok hread⟩

/-- Settles O59: the element of the block that iteration `j` reaches, and the loop's test for the next one. -/
theorem readElementYieldsDeviceBytes : Obligations.ReadElementYieldsDeviceBytes := by
  intro s start stop block j p hr hq hpeer hh hd hbank hlegal hj hfw hp
  have hbounds := (legalRead_iff ..).1 hlegal
  have hblk : BlockOf start stop block (pageFloor start + j * block) :=
    blockOf_of_lt (by omega) (by omega) (by omega) hj
  obtain ⟨u, hout, hnext⟩ := nextRead_reference ⟨hr, hq, hpeer, hh, hd⟩ hbank hblk (by omega)
    (show stop < 524288 by omega) hp
  rw [fwYield_ite _ FwCall.noConfusion] at hnext
  rw [Nat.succ_mul, ← Nat.add_assoc]
  refine ⟨_, (nextElement_of_reading hfw).trans hnext, by rw [← hout], fun hmore => ?_, fun hdone => ?_⟩
  · exact ⟨if_pos hmore, if_pos hmore⟩
  · exact ⟨if_neg (Nat.not_lt.2 hdone), if_neg (Nat.not_lt.2 hdone)⟩

end Sys2Proof.Machine
end

section
/-! PROOFS. A frame that has not arrived whole is not read as a frame (46_device R254, R265). -/

namespace Sys2Proof

/-- 46_device R254: bytes that arrive behind a whole frame do not change how it is read. -/
theorem decodeFrame_append {bs payload rest : List Byte} {i : Instr} (h : decodeFrame bs = .ok (i, payload, rest))
    (more : List Byte) : decodeFrame (bs ++ more) = .ok (i, payload, rest ++ more) := by
  obtain ⟨rfl, hl, hpages⟩ := decodeFrame_ok h
  rw [List.append_assoc]
  exact decodeFrame_frameOf_append hpages hl (rest ++ more)

/-- Settles O5: if the first bytes read as a frame, reading the whole frame would leave the bytes cut off from it, and
it leaves none. -/
theorem framePrefixIsNotAFrame : Obligations.FramePrefixIsNotAFrame := by
  intro i payload k hl hk hpages
  cases hfirst : decodeFrame ((frameOf i payload).take k) with
  | error e => exact ⟨e, rfl⟩
  | ok read =>
    obtain ⟨j, payload', rest⟩ := read
    have hcut := decodeFrame_append hfirst ((frameOf i payload).drop k)
    have hwhole := decodeFrame_frameOf_append hpages hl []
    rw [List.take_append_drop] at hcut
    rw [List.append_nil, hcut] at hwhole
    simp only [Except.ok.injEq, Prod.mk.injEq, List.append_eq_nil_iff, List.drop_eq_nil_iff] at hwhole
    obtain ⟨_, _, _, hnone⟩ := hwhole
    exact absurd hnone (Nat.not_le.2 hk)

end Sys2Proof
end

section
/-! PROOFS. What the responder keeps: its whole state under the reading commands, and EMUBANK_P over a power cycle
(46_device R258, R264). -/

namespace Sys2Proof.Machine

/-! ### Reading commands -/

/-- 46_device R260: a `ZR` is answered with its pages and their sum, or not at all where a byte has no value. -/
theorem apply_zr_eq_map (d : Device) (n : Byte) (bh : Bank) (ah : Byte) (payload : List Byte) :
    d.apply (.zr n bh ah) payload = (d.mem.readAt (d.transferSpan n bh ah)).map fun p => (d, summed p) := by
  cases hread : d.mem.readAt (d.transferSpan n bh ah) with
  | none => simp only [Device.apply, hread, Option.map_none]
  | some p => exact apply_zr payload hread

/-- 46_device R255 to R263: a reading command's answer comes from the banks and the memory alone, and carrying it out
leaves the responder as it is. -/
theorem apply_reading (d : Device) {i : Instr} (payload : List Byte) (hi : i.response ≠ .ack) (m : Nat) :
    ({ d with frames := m } : Device).apply i payload
      = (d.apply i payload).map fun a => ({ d with frames := m }, a.2) := by
  cases i with
  | vv | ns | brr | bes | ber => rfl
  | zr n bh ah =>
    rw [apply_zr_eq_map, apply_zr_eq_map, Option.map_map]
    rfl
  | zw | br | bs | be => exact absurd rfl hi

/-- 46_device R258, R266: a reading command is never rejected, so all the responder keeps of it is the count of its
frame, and the count has no part in the answer (log 19). -/
theorem respond_reading (d : Device) {i : Instr} (payload : List Byte) (hi : i.response ≠ .ack) (m : Nat) :
    ({ d with frames := m } : Device).respond i payload
      = (d.apply i payload).map fun a => ({ d with frames := m + 1 }, a.2) :=
  (respond_applied payload (.inr hi)).trans (apply_reading d payload hi (m + 1))

/-- 46_device R258: a reading command that is answered changes the count of frames only, and is answered alike at every
count. -/
theorem respond_reading_of_answered {d d' : Device} {i : Instr} {payload r : List Byte} (hi : i.response ≠ .ack)
    (h : d.respond i payload = some (d', r)) : d' = { d with frames := d.frames + 1 } ∧
      ∀ m, ({ d with frames := m } : Device).respond i payload = some ({ d with frames := m + 1 }, r) := by
  obtain ⟨a, ha, heq⟩ := Option.map_eq_some_iff.1 ((respond_reading d payload hi d.frames).symm.trans h)
  obtain ⟨rfl, rfl⟩ := Prod.mk.inj heq
  exact ⟨rfl, fun m => by rw [respond_reading d payload hi m, ha]; rfl⟩

/-- 46_device R258: after reading frames only the count of frames may differ. -/
theorem afterFrames_reading : ∀ (l : List (Instr × List Byte)) {d e : Device}, (∀ f ∈ l, f.1.response ≠ .ack) →
    d.afterFrames l = some e → ∃ n, e = { d with frames := n } := by
  intro l
  induction l with
  | nil =>
    intro d e _ h
    exact ⟨d.frames, (Option.some.inj h).symm⟩
  | cons f l ih =>
    intro d e hl h
    obtain ⟨hf, hl⟩ := List.forall_mem_cons.1 hl
    rw [Device.afterFrames] at h
    split at h
    · rename_i d' r hr
      obtain ⟨rfl, _⟩ := respond_reading_of_answered hf hr
      obtain ⟨n, rfl⟩ := ih hl h
      exact ⟨n, rfl⟩
    · cases h

/-- Settles O48: the answer is the same for every count of frames, and nothing else of the responder has changed. -/
theorem readingCommandsChangeNoDeviceState : Obligations.ReadingCommandsChangeNoDeviceState := by
  intro d d' i payload r hi h
  obtain ⟨rfl, hagain⟩ := respond_reading_of_answered hi h
  refine ⟨rfl, rfl, rfl, rfl, fun l e hl he => ?_, fun e hio hemu hpers hmem => ?_⟩
  · obtain ⟨n, rfl⟩ := afterFrames_reading l hl he
    exact ⟨_, hagain n⟩
  · have hsame : { d with frames := e.frames } = e := by rw [← hio, ← hemu, ← hpers, ← hmem]
    rw [← hsame]
    exact ⟨_, hagain e.frames⟩

/-! ### The power cycle -/

/-- Settles O50, field by field. -/
theorem powerCycleReloadsThePersistentBank : Obligations.PowerCycleReloadsThePersistentBank := by
  intro s t h
  obtain rfl := Host.Outcome.next.inj h
  exact ⟨rfl, rfl, read_nil, rfl, rfl, rfl⟩

end Sys2Proof.Machine
end

section
/-! PROOFS. A command against the reference responder, beside the same command with the answer already on its way
(46_device R250, R254). -/

namespace Sys2Proof.Machine

/-- 41_framer R156 to R160: the last byte of the response ends the operation. -/
theorem foldl_afterRx_idle {i : Instr} : ∀ (r : List Byte) {e : Engine}, e.Runs i → e.ph.group ≠ .transmit →
    r.length = e.awaited → (r.foldl Engine.afterRx e).ph = .idle := by
  intro r
  induction r with
  | nil =>
    intro e hrun hg hl
    have hrx := (awaited_eq_zero_iff hrun).1 hl.symm
    rw [List.foldl_nil, ← group_idle_iff]
    cases hgroup : e.ph.group with
    | idle => rfl
    | transmit => exact absurd hgroup hg
    | receive => exact absurd hgroup hrx
  | cons b r ih =>
    intro e hrun hg hl
    rw [List.length_cons] at hl
    have hrx : e.ph.group = .receive := by
      by_contra hne
      exact Nat.succ_ne_zero _ (hl.trans ((awaited_eq_zero_iff hrun).2 hne))
    exact ih (Engine.Move.runs (.take b hrx) hrun) (afterRx_group b hg)
      (Nat.succ.inj (hl.trans (afterRx_awaited b hrun hrx).symm))

/-- Settles O51: either way the engine takes the same response byte by byte, which is as long as it waits for. -/
theorem referenceRunIsAnUnconstrainedRun : Obligations.ReferenceRunIsAnUnconstrainedRun := by
  intro s i payload r d hr hq hpeer hh hd hw hp hresp
  have hlen := respond_length hresp
  have hwaiting := exec_response (s := { s with peer := .unconstrained, d2h := r }) hr hq hw hp
    (List.append_nil r).symm hlen
  have hidle := foldl_afterRx_idle r (responding_runs payload hw) (responding_not_transmit s i payload)
    (hlen.trans (responding_awaited s i payload).symm)
  refine ⟨_, hwaiting, hidle, ?_⟩
  rw [exec_reference ⟨hr, hq, hpeer, hh, hd⟩ hw hp hresp]
  simp only [responding, hpeer, hh, hd]

end Sys2Proof.Machine
end
